-- ==== Sys2Proof/Word.lean ====
section
/-! DEFINITION. The value types of the machine: bytes and IEEE 754 binary64 values. -/

namespace Sys2Proof

/-- A byte, 0..255 (00_scope.md R13). -/
abbrev Byte := BitVec 8

/-- One IEEE 754 binary64 value, the content of an attitude register (10_state.md R22, 00_scope.md R16).
The constructors hold exactly the fields of the 64-bit pattern (30_encoding.md R77: bit 63 sign, [62:52] exponent,
[51:0] fraction), so that every pattern is one value and every value one pattern: `F64.ofBits` and `F64.toBits`.
A NaN keeps its sign and its non-zero fraction, stored as fraction minus one. -/
inductive F64 where
  /-- A finite value: sign, biased exponent 0..2046, fraction. Exponent 0 is zero or a subnormal. -/
  | fin (sign : Bool) (exp : Fin 2047) (frac : BitVec 52)
  /-- An infinity: biased exponent 2047, fraction 0. -/
  | inf (sign : Bool)
  /-- A NaN: biased exponent 2047, fraction `payload + 1`. -/
  | nan (sign : Bool) (payload : Fin 4503599627370495)
deriving DecidableEq, Repr

/-- The binary64 operations of 00_scope.md R16. -/
inductive FOp where
  | add | sub | mul | div | sqrt
deriving DecidableEq, Repr

/-- +0.0. -/
def F64.zero : F64 := .fin false 0 0

end Sys2Proof
end

