-- ==== Sys2Proof/Config.lean ====
section
/-! DEFINITION. What an implementation fixes (the open parameters of 00_scope.md R8 to R11) and the free values. -/

namespace Sys2Proof

/-- `FieldType` (00_scope.md R10, 30_encoding.md R77). -/
inductive FieldType where
  | u8 | i8 | u16 | i16 | u32 | i32 | u64 | i64 | f32 | f64
  | bytes (n : Nat)
deriving DecidableEq, Repr

/-- The width of a field in bytes (30_encoding.md R77). -/
def FieldType.width : FieldType → Nat
  | .u8 => 1 | .i8 => 1
  | .u16 => 2 | .i16 => 2
  | .u32 => 4 | .i32 => 4
  | .u64 => 8 | .i64 => 8
  | .f32 => 4 | .f64 => 8
  | .bytes n => n

/-- A numeric field is any field type other than `bytes(n)` (00_scope.md R11). -/
def FieldType.isNumeric : FieldType → Bool
  | .bytes _ => false
  | _ => true

/-- `bytes(n)` has `n >= 1` (00_scope.md R10). -/
def FieldType.wf : FieldType → Bool
  | .bytes n => decide (1 ≤ n)
  | _ => true

/-- A named field of a message record (00_scope.md R10). -/
structure Field where
  name : String
  type : FieldType
deriving DecidableEq, Repr

/-- The ordered list of fields of one message record. -/
abbrev Layout := List Field

/-- `L_id`: the sum of the field widths (00_scope.md R10). -/
def Layout.size (l : Layout) : Nat := (l.map fun f => f.type.width).sum

/-- The layout has a numeric field of that name (00_scope.md R11). -/
def Layout.hasNumeric (l : Layout) (name : String) : Bool :=
  l.any fun f => f.name == name && f.type.isNumeric

/-- The eight supported message ids (30_encoding.md R80). -/
inductive MsgKind where
  | m1462 | m1457 | m319 | m1465 | m508 | m1708 | m1382 | m813
deriving DecidableEq, Repr

/-- The configuration parameters (00_scope.md R8, R10), not yet checked: `MSG_LAYOUT`, one layout per supported id, used
for Long and Short frames alike (30_encoding.md R90), and `FBUF_CAP`. `TEXT_OK`, `H_TOP_POLICY`, `HV_ORDER`,
`ATT_RESET` and `OFFSET_BITS` are fixed by the spec (R7, R9, R12) and stand in the definitions that use them. -/
structure Params where
  l1462 : Layout
  l1457 : Layout
  l319 : Layout
  l1465 : Layout
  l508 : Layout
  l1708 : Layout
  l1382 : Layout
  l813 : Layout
  fbufCap : Nat
deriving DecidableEq, Repr

/-- `MSG_LAYOUT[id]` (00_scope.md R10). -/
def Params.layout (p : Params) : MsgKind → Layout
  | .m1462 => p.l1462
  | .m1457 => p.l1457
  | .m319 => p.l319
  | .m1465 => p.l1465
  | .m508 => p.l508
  | .m1708 => p.l1708
  | .m1382 => p.l1382
  | .m813 => p.l813

/-- All eight layouts. -/
def Params.layouts (p : Params) : List Layout :=
  [p.l1462, p.l1457, p.l319, p.l1465, p.l508, p.l1708, p.l1382, p.l813]

/-- The names the update of id 1465 reads (00_scope.md R11 (b)). -/
def names1465 : List String := ["up_vel", "north_vel", "east_vel", "roll", "pitch"]

/-- The names the update of id 1708 reads (00_scope.md R11 (c)). -/
def names1708 : List String := ["vertical_acc", "lateral_acc", "longitudinal_acc", "roll_rate", "pitch_rate"]

/-- The name the update of id 813 reads (00_scope.md R11 (d)). -/
def names813 : List String := ["heave"]

/-- Well-formedness of a configuration: 00_scope.md R11 (a) to (e), with R10's `n >= 1` and R8's bound on `FBUF_CAP`. -/
def Params.wf (p : Params) : Bool :=
  p.layouts.all (fun l => decide ((l.map Field.name).Nodup) && l.all (fun f => f.type.wf)) &&
  names1465.all p.l1465.hasNumeric &&
  names1708.all p.l1708.hasNumeric &&
  names813.all p.l813.hasNumeric &&
  p.layouts.all (fun l => decide (28 + l.size ≤ p.fbufCap))

/-- A configuration the hardware can be built with. An ill-formed one is refused by the type (00_scope.md R8, R11: "A
model refuses an ill-formed layout"): no value of `Config` holds it. -/
abbrev Config := { p : Params // p.wf = true }

/-- The check that admits parameters to `Config`, and refuses ill-formed ones (00_scope.md R8, R11). -/
def Config.accept (p : Params) : Option Config :=
  if h : p.wf = true then some ⟨p, h⟩ else none

/-- A smallest configuration, used only to show that `Config` is inhabited; it is not the hardware's. -/
def Params.smallest : Params where
  l1462 := []
  l1457 := []
  l319 := []
  l1465 := names1465.map fun n => ⟨n, .u8⟩
  l508 := []
  l1708 := names1708.map fun n => ⟨n, .u8⟩
  l1382 := []
  l813 := names813.map fun n => ⟨n, .u8⟩
  fbufCap := 33

/-- `MSG_LAYOUT` and `FBUF_CAP` are OPEN (00_scope.md R10, 91_not_in_source.md N1): an opaque constant, of which
nothing but its well-formedness can be proved. DESIGN CHOICE, safe (log 2). -/
opaque Config.open_ [Inhabited Config] : Config

/-- The configuration of the chip at hand: see `Config.open_`. -/
def Config.chip : Config := @Config.open_ ⟨⟨Params.smallest, by decide⟩⟩

/-- Where a NaN was made: by widening a binary32 NaN, or by an operation. -/
inductive NanSource where
  | widen (u : BitVec 32)
  | op (o : FOp) (a b : F64)
deriving DecidableEq, Repr

/-- FREE VALUE: sign and payload of a NaN made by widening or by arithmetic. The spec allows "any NaN encoding"
(93_implementation_defined.md I4, 42_message_decoder.md R143). DESIGN CHOICE, safe (log 11). -/
opaque Config.freeNan : NanSource → Bool × Fin 4503599627370495

end Sys2Proof
end

