-- ==== Sys2Proof/Syntax.lean ====
section
/-! DEFINITION. The instructions: one constructor per row of spec/opcode_table.json (00_scope.md R3). -/

namespace Sys2Proof

/-- The byte patterns that select what the block does. The first four are the level-1 rows (SYNC24, 30_encoding.md R70),
the others the level-2 rows (MSGID16, R80). The two default rows keep the bits that selected them: `syncNone` the three
bytes of the window, `msgUnsupported` the message id (log 18). -/
inductive Instr where
  /-- SYNC_LONG: `AA 44 12`. -/
  | syncLong
  /-- SYNC_SHORT: `AA 44 13`. -/
  | syncShort
  /-- SYNC_INFOTEXT: `3C 49 4E`. -/
  | syncInfoText
  /-- SYNC_NONE: any other window. -/
  | syncNone (b0 b1 b2 : Byte)
  /-- MSG_1462. -/
  | msg1462
  /-- MSG_1457. -/
  | msg1457
  /-- MSG_319. -/
  | msg319
  /-- MSG_1465. -/
  | msg1465
  /-- MSG_508. -/
  | msg508
  /-- MSG_1708. -/
  | msg1708
  /-- MSG_1382. -/
  | msg1382
  /-- MSG_813. -/
  | msg813
  /-- MSG_UNSUPPORTED: any other message id. -/
  | msgUnsupported (id : BitVec 16)
deriving DecidableEq, Repr

/-- The two levels of the decode (30_encoding.md R90): the `format` column of the opcode table. -/
inductive Level where
  /-- `SYNC24`: the three-byte window at `pos`. -/
  | sync
  /-- `MSGID16`: the two id bytes at header offset 4. -/
  | msgId
deriving DecidableEq, Repr

/-- The level an instruction is decoded at. -/
def Instr.level : Instr → Level
  | .syncLong => .sync
  | .syncShort => .sync
  | .syncInfoText => .sync
  | .syncNone _ _ _ => .sync
  | .msg1462 => .msgId
  | .msg1457 => .msgId
  | .msg319 => .msgId
  | .msg1465 => .msgId
  | .msg508 => .msgId
  | .msg1708 => .msgId
  | .msg1382 => .msgId
  | .msg813 => .msgId
  | .msgUnsupported _ => .msgId

end Sys2Proof
end

