-- ==== Sys2Proof/WellFormed.lean ====
section
/-! DEFINITION. Well-formed instructions: the two default rows exclude what the other rows match. -/

namespace Sys2Proof

/-- The three sync words (30_encoding.md R70). -/
def syncWords : List (List Byte) := [[0xAA, 0x44, 0x12], [0xAA, 0x44, 0x13], [0x3C, 0x49, 0x4E]]

/-- The eight supported ids (30_encoding.md R80). -/
def supportedIds : List (BitVec 16) := [1462, 1457, 319, 1465, 508, 1708, 1382, 813]

/-- The window is not a sync word: the condition of row SYNC_NONE (30_encoding.md R70). -/
def notSyncWord (b0 b1 b2 : Byte) : Bool := !(syncWords.contains [b0, b1, b2])

/-- The id is none of the eight: the condition of row MSG_UNSUPPORTED (30_encoding.md R80). -/
def notSupportedId (id : BitVec 16) : Bool := !(supportedIds.contains id)

/-- Each default arm is taken only when no other row of its format matches (30_encoding.md R90). -/
def Instr.wf : Instr → Bool
  | .syncLong => true
  | .syncShort => true
  | .syncInfoText => true
  | .syncNone b0 b1 b2 => notSyncWord b0 b1 b2
  | .msg1462 => true
  | .msg1457 => true
  | .msg319 => true
  | .msg1465 => true
  | .msg508 => true
  | .msg1708 => true
  | .msg1382 => true
  | .msg813 => true
  | .msgUnsupported id => notSupportedId id

end Sys2Proof
end

