-- ==== Sys2Proof/Decode.lean ====
section
/-! DEFINITION. The two-level decoder (30_encoding.md R70, R80, R90), the encoder, and the reading of opcode-table words. -/

namespace Sys2Proof

/-- The unsigned value of a byte sequence, first byte least significant (20_memory.md R54; the sum of 00_scope.md R14). -/
def leNat : List Byte → Nat
  | [] => 0
  | b :: bs => b.toNat + 256 * leNat bs

/-- The `n` little-endian bytes of `v`. -/
def leBytes : Nat → Nat → List Byte
  | 0, _ => []
  | n + 1, v => BitVec.ofNat 8 v :: leBytes n (v / 256)

/-- Why a byte sequence gives no instruction. -/
inductive DecodeError where
  /-- Fewer bytes than the level needs: the source's `TruncatedInput`, a wait (60_exceptions.md R256). -/
  | truncatedInput
deriving DecidableEq, Repr

/-- Level 1: the sync word of a three-byte window. Every window selects one row (30_encoding.md R70, R71). -/
def decodeSync (b0 b1 b2 : Byte) : Instr :=
  if b0 = 0xAA ∧ b1 = 0x44 ∧ b2 = 0x12 then .syncLong
  else if b0 = 0xAA ∧ b1 = 0x44 ∧ b2 = 0x13 then .syncShort
  else if b0 = 0x3C ∧ b1 = 0x49 ∧ b2 = 0x4E then .syncInfoText
  else .syncNone b0 b1 b2

/-- Level 2: the message decoder multiplexer, exact equality on all 16 bits (30_encoding.md R80, 42_message_decoder.md R141). -/
def decodeId (id : BitVec 16) : Instr :=
  if id = 1462 then .msg1462
  else if id = 1457 then .msg1457
  else if id = 319 then .msg319
  else if id = 1465 then .msg1465
  else if id = 508 then .msg508
  else if id = 1708 then .msg1708
  else if id = 1382 then .msg1382
  else if id = 813 then .msg813
  else .msgUnsupported id

/-- The decoder: total on any bytes, it answers the instruction and the bytes after the ones that selected it. -/
def decode : Level → List Byte → Except DecodeError (Instr × List Byte)
  | .sync, b0 :: b1 :: b2 :: rest => .ok (decodeSync b0 b1 b2, rest)
  | .msgId, lo :: hi :: rest => .ok (decodeId (BitVec.ofNat 16 (leNat [lo, hi])), rest)
  | _, _ => .error .truncatedInput

/-- The bytes that select an instruction: the sync word in stream order (30_encoding.md R70), or the id bytes of header
offset 4 and 5 (R80). -/
def encode : Instr → List Byte
  | .syncLong => [0xAA, 0x44, 0x12]
  | .syncShort => [0xAA, 0x44, 0x13]
  | .syncInfoText => [0x3C, 0x49, 0x4E]
  | .syncNone b0 b1 b2 => [b0, b1, b2]
  | .msg1462 => leBytes 2 1462
  | .msg1457 => leBytes 2 1457
  | .msg319 => leBytes 2 319
  | .msg1465 => leBytes 2 1465
  | .msg508 => leBytes 2 508
  | .msg1708 => leBytes 2 1708
  | .msg1382 => leBytes 2 1382
  | .msg813 => leBytes 2 813
  | .msgUnsupported id => leBytes 2 id.toNat

/-- The stream bytes of the 24-bit composite `s`, first byte in bits [23:16] (30_encoding.md R70). -/
def syncWordBytes (w : Nat) : List Byte :=
  [BitVec.ofNat 8 (w / 65536), BitVec.ofNat 8 (w / 256), BitVec.ofNat 8 w]

/-- The level of a table word of `nbits` bits: 16 bits are a `MSGID16` value, up to 24 a `SYNC24` value (log 20). -/
def tableLevel (nbits : Nat) : Option Level :=
  if nbits = 16 then some .msgId else if nbits ≤ 24 then some .sync else none

/-- The bytes of a table word as the stream holds them: a `SYNC24` composite first byte uppermost (30_encoding.md R70), a
`MSGID16` value little-endian (R80). -/
def tableWordBytes : Level → Nat → List Byte
  | .sync, w => syncWordBytes w
  | .msgId, w => leBytes 2 w

/-- The instruction the decoder reads from an opcode-table word. -/
def decodeTableWord (nbits w : Nat) : Option Instr :=
  match tableLevel nbits with
  | none => none
  | some l =>
    match decode l (tableWordBytes l w) with
    | .ok (i, _) => some i
    | .error _ => none

end Sys2Proof
end

