-- ==== Sys2Proof/Machine/State.lean ====
section
/-! DEFINITION. The machine's state (10_state.md), the reasons a step could stop, and the state after reset. -/

namespace Sys2Proof.Machine

/-- The attitude register file ARF (10_state.md R22), by name. -/
structure Attitude where
  horiz : F64
  vert : F64
  heave : F64
  roll : F64
  pitch : F64
deriving DecidableEq, Repr

/-- The names of the attitude registers, in index order 0..4 (10_state.md R22). -/
inductive AttReg where
  | horiz | vert | heave | roll | pitch
deriving DecidableEq, Repr

/-- STATUS (10_state.md R23): 0 = Active, 1 = NotAligned. -/
inductive Status where
  | active | notAligned
deriving DecidableEq, Repr

/-- The control states of the Bridge Loop (10_state.md R26). The value 7 is never written, so it is no constructor (log 15). -/
inductive Fsm where
  | idle | waitSync | textSkip | header | message | emit | stopped
deriving DecidableEq, Repr

/-- The Frame Kind (10_state.md R27). -/
inductive FrameKind where
  | unknown | long | short | infoText
deriving DecidableEq, Repr

/-- The frame kind and the frame latches (10_state.md R27, R28). -/
structure FrameLatches where
  kind : FrameKind
  syncOff : Nat
  hl : Nat
  msgId : BitVec 16
  msgLen : BitVec 16
  frameEnd : Nat
deriving DecidableEq, Repr

/-- The Long header latches (10_state.md R29). `ms` is a signed value in two's complement. -/
structure LongLatches where
  headerLength : BitVec 8
  messageType : BitVec 8
  portAddress : BitVec 8
  sequence : BitVec 16
  idleTime : BitVec 8
  timeStatus : BitVec 8
  week : BitVec 16
  ms : BitVec 32
  receiverStatus : BitVec 32
  reserved : BitVec 16
  receiverSwVersion : BitVec 16
deriving DecidableEq, Repr

/-- The Short header latches (10_state.md R29). -/
structure ShortLatches where
  weekNumber : BitVec 16
  msecFromWeek : BitVec 32
deriving DecidableEq, Repr

/-- The header field latches (10_state.md R29). -/
structure HeaderLatches where
  long : LongLatches
  short : ShortLatches
deriving DecidableEq, Repr

/-- The discard-run registers (10_state.md R30). -/
structure DiscardRun where
  cnt : Nat
  start : Nat
deriving DecidableEq, Repr

/-- The output record register (10_state.md R32). -/
structure OutRecord where
  obuf : Vector Byte 26
  ocnt : Nat
deriving DecidableEq, Repr

/-- One record of the event port, by its signals (60_exceptions.md R251). -/
structure Event where
  code : BitVec 4
  field : BitVec 3
  msgId : BitVec 16
  offset : BitVec 32
  arg : BitVec 32
deriving DecidableEq, Repr

/-- One turn of the machine: a block step or a host step (10_state.md R20, log 3). -/
inductive Turn where
  /-- The block takes its step, if one is enabled (45_bridge_loop.md R220). -/
  | block
  /-- The input handshake: the block accepts the byte presented, `Recv(b)` (20_memory.md R51, R52). -/
  | recv
  /-- The host presents one more byte (20_memory.md R51). -/
  | present (b : Byte)
  /-- The host drives `out_ready` (20_memory.md R56). -/
  | ready (v : Bool)
  /-- The host drives `stop_req` (45_bridge_loop.md R229). -/
  | stop (v : Bool)
  /-- The host drives `src_fail` (45_bridge_loop.md R230). -/
  | srcFail (v : Bool)
  /-- The host drives `sink_fail` (45_bridge_loop.md R230). -/
  | sinkFail (v : Bool)
  /-- The host writes STATUS: `status_wr = 1` with `status_wdata` (45_bridge_loop.md R232). -/
  | status (v : Status)
  /-- The host drives `rst` (70_reset_and_hazards.md R280). -/
  | rst (v : Bool)
deriving DecidableEq, Repr

/-- The host's side of the ports: its input lines (45_bridge_loop.md R229, R230, 20_memory.md R56, 70_reset_and_hazards.md
R280), the bytes it presents and the block has not accepted (20_memory.md R51), and the schedule of turns to come
(the model's own, log 3). -/
structure HostSide where
  rst : Bool
  stopReq : Bool
  srcFail : Bool
  sinkFail : Bool
  outReady : Bool
  inq : List Byte
  sched : List Turn
deriving DecidableEq, Repr

/-- The machine's state: the block's state (10_state.md R21), its event sequence (60_exceptions.md R251), the host's side of
its ports, and the configuration, a parameter that no step writes (log 1). -/
structure State where
  /-- The configuration (00_scope.md R8, R10). -/
  cfg : Config
  /-- ARF (R22). -/
  arf : Attitude
  /-- STATUS (R23). -/
  status : Status
  /-- The cursor (R24). -/
  pos : Nat
  /-- S, the accepted input stream; `avail` is its length (R25). -/
  input : List Byte
  /-- The control state (R26). -/
  fsm : Fsm
  /-- Frame kind and frame latches (R27, R28). -/
  frame : FrameLatches
  /-- Header field latches (R29). -/
  hdr : HeaderLatches
  /-- Discard-run registers (R30). -/
  disc : DiscardRun
  /-- Output record register (R32). -/
  tx : OutRecord
  /-- O, the bytes delivered since power-on (20_memory.md R56). -/
  out : List Byte
  /-- The events raised, in step order (60_exceptions.md R251). -/
  events : List Event
  /-- The host's side of the ports. -/
  host : HostSide
deriving DecidableEq, Repr

/-- No step of this machine stops with a fault: every fault of the spec is an event and a next state (60_exceptions.md R250,
R258, R259, R262). The type has no constructor. -/
inductive Fault
deriving DecidableEq, Repr

/-- The reasons a step is refused. -/
inductive Refusal where
  /-- Raised by `exec` for an instruction without a meaning. Safe. No arm of this model uses it. -/
  | notModelled (mnemonic : String)
deriving DecidableEq, Repr

/-- `ATT_RESET`: all five scalars +0.0 (00_scope.md R12, 10_state.md R31). -/
def Attitude.reset : Attitude := ⟨.zero, .zero, .zero, .zero, .zero⟩

/-- Frame kind and latches at reset (10_state.md R31). -/
def FrameLatches.reset : FrameLatches := ⟨.unknown, 0, 0, 0, 0, 0⟩

/-- Header latches at reset (10_state.md R31). -/
def HeaderLatches.reset : HeaderLatches := ⟨⟨0, 0, 0, 0, 0, 0, 0, 0, 0, 0, 0⟩, ⟨0, 0⟩⟩

/-- Discard run at reset (10_state.md R31). -/
def DiscardRun.reset : DiscardRun := ⟨0, 0⟩

/-- Output record register at reset: 26 bytes 0x00, `ocnt = 0` (10_state.md R31). -/
def OutRecord.reset : OutRecord := ⟨Vector.replicate 26 0, 0⟩

/-- The host's side at power-on: no line raised, the sink ready, nothing presented, nothing scheduled (DESIGN CHOICE, log 9). -/
def HostSide.quiet : HostSide := ⟨false, false, false, false, true, [], []⟩

/-- The machine right after power-on reset (10_state.md R31, 70_reset_and_hazards.md R280 to R282). -/
def State.reset : State where
  cfg := Config.chip
  arf := .reset
  status := .active
  pos := 0
  input := []
  fsm := .idle
  frame := .reset
  hdr := .reset
  disc := .reset
  tx := .reset
  out := []
  events := []
  host := .quiet

/-! The updates: one per field. `cfg` has none: no step writes the configuration (10_state.md R21, 20_memory.md R64). -/

/-- Writes ARF, all five registers at once. -/
def State.withArf (s : State) (v : Attitude) : State := { s with arf := v }
/-- Writes STATUS. -/
def State.withStatus (s : State) (v : Status) : State := { s with status := v }
/-- Sets the cursor. -/
def State.withPos (s : State) (v : Nat) : State := { s with pos := v }
/-- Sets the accepted stream. -/
def State.withInput (s : State) (v : List Byte) : State := { s with input := v }
/-- Sets the control state. -/
def State.withFsm (s : State) (v : Fsm) : State := { s with fsm := v }
/-- Sets the frame kind and latches. -/
def State.withFrame (s : State) (v : FrameLatches) : State := { s with frame := v }
/-- Sets the header field latches. -/
def State.withHdr (s : State) (v : HeaderLatches) : State := { s with hdr := v }
/-- Sets the discard-run registers. -/
def State.withDisc (s : State) (v : DiscardRun) : State := { s with disc := v }
/-- Sets the output record register. -/
def State.withTx (s : State) (v : OutRecord) : State := { s with tx := v }
/-- Sets the delivered output. -/
def State.withOut (s : State) (v : List Byte) : State := { s with out := v }
/-- Sets the event sequence. -/
def State.withEvents (s : State) (v : List Event) : State := { s with events := v }
/-- Sets the host's side of the ports. -/
def State.withHost (s : State) (v : HostSide) : State := { s with host := v }

end Sys2Proof.Machine
end

