-- ==== Sys2Proof/Machine/Ops.lean ====
section
/-! DEFINITION. The named operations over the stream, the registers and the event port, and taking a fault. -/

namespace Sys2Proof.Machine

/-! ## The input stream (00_scope.md R14, 20_memory.md R50) -/

/-- `avail`: how many bytes the block has accepted since reset (10_state.md R25). -/
def State.avail (s : State) : Nat := s.input.length

/-- The byte at a stream offset. No byte exists at an offset `>= avail` (20_memory.md R50). -/
def State.byteAt (s : State) (off : Nat) : Option Byte := s.input[off]?

/-- `Bytes(off, n)`, defined when `off + n <= avail` (00_scope.md R14). -/
def State.bytes (s : State) (off n : Nat) : List Byte := (s.input.drop off).take n

/-- `MemRead(off, n)`: the little-endian unsigned value, defined when `off + n <= avail` (00_scope.md R14). -/
def State.memRead (s : State) (off n : Nat) : Nat := leNat (s.bytes off n)

/-- The stream as (offset, byte) cells: one for every accepted byte, none for an offset that holds no byte (log 21). -/
def State.cells (s : State) : List Host.Cell := s.input.zipIdx.map fun p => (p.2, p.1)

/-- The canonical form of a memory of cells: offsets strictly rising. Every stream has it (`Laws`, `cells_wf`). -/
def Memory.wf (m : List Host.Cell) : Bool := decide (m.Pairwise fun a b => a.1 < b.1)

/-- `TEXT_OK(b) = (b < 0x80)` (00_scope.md R9). -/
def textOk (b : Byte) : Bool := decide (b.toNat < 0x80)

/-! ## The host's side -/

/-- The schedule after a turn has been taken. -/
def State.withSched (s : State) (ts : List Turn) : State := s.withHost { s.host with sched := ts }

/-- `Out(bs)`: appends to the output stream (00_scope.md R14). -/
def State.emitBytes (s : State) (bs : List Byte) : State := s.withOut (s.out ++ bs)

/-- `Recv(b)`: the block accepts the byte presented, if there is one, in every control state except STOPPED (20_memory.md
R51, R52). Where it is not enabled the host goes on holding the byte (log 6). -/
def State.recv (s : State) : State :=
  match s.host.inq with
  | [] => s
  | b :: bs =>
    if s.fsm = .stopped then s
    else (s.withInput (s.input ++ [b])).withHost { s.host with inq := bs }

/-! ## The event port (60_exceptions.md R251) -/

/-- A stream offset as the event port reports it: modulo 2^32 (00_scope.md R7). -/
def report (n : Nat) : BitVec 32 := BitVec.ofNat 32 n

/-- The numeric code of a frame kind (10_state.md R27). -/
def FrameKind.code : FrameKind → BitVec 2
  | .unknown => 0
  | .long => 1
  | .short => 2
  | .infoText => 3

/-- The index of an attitude register (10_state.md R22). -/
def AttReg.index : AttReg → BitVec 3
  | .horiz => 0
  | .vert => 1
  | .heave => 2
  | .roll => 3
  | .pitch => 4

/-- FramingFault, code 1 (60_exceptions.md R252, 40_frame_scanner.md R107). -/
def Event.framing (d : DiscardRun) : Event := ⟨1, 0, 0, report d.start, report d.cnt⟩

/-- UnknownHeaderKind, code 2 (R253). -/
def Event.unknownHeaderKind (f : FrameLatches) : Event := ⟨2, 0, 0, report f.syncOff, f.kind.code.zeroExtend 32⟩

/-- UnsupportedMessageId, code 3 (R254). -/
def Event.unsupported (f : FrameLatches) : Event := ⟨3, 0, f.msgId, report f.syncOff, f.msgLen.zeroExtend 32⟩

/-- OutOfRangeValue, code 4 (R255). -/
def Event.outOfRange (r : AttReg) (f : FrameLatches) : Event := ⟨4, r.index, f.msgId, report f.syncOff, 0⟩

/-- LengthMismatch, code 6 (R257). -/
def Event.lengthMismatch (f : FrameLatches) : Event := ⟨6, 0, f.msgId, report f.syncOff, f.msgLen.zeroExtend 32⟩

/-- IoFailure, code 7; the argument is 1 = source, 2 = sink, 3 = both (R251, R259). -/
def Event.ioFailure (pos : Nat) (src sink : Bool) : Event :=
  ⟨7, 0, 0, report pos, (if src then 1 else 0) + (if sink then 2 else 0)⟩

/-- Presents an event (R251): the sequence of events grows by one record. -/
def State.raise (s : State) (e : Event) : State := s.withEvents (s.events ++ [e])

/-! ## Taking a fault, and going on after it (60_exceptions.md R258, R259, R262) -/

/-- The frame abort, the entry action of every non-fatal frame fault (codes 3, 4, 6): the event, the cursor past the whole
frame, IDLE (R258). Nothing is saved, and nothing returns: the block goes on at IDLE (R262). -/
def State.abortFrame (s : State) (e : Event) : State :=
  ((s.raise e).withPos s.frame.frameEnd).withFsm .idle

/-- The entry action of a fatal fault (codes 2 and 7): the event, then STOPPED until reset (R253, R259, R262). -/
def State.stopWith (s : State) (e : Event) : State := (s.raise e).withFsm .stopped

/-! ## Enabling -/

/-- A block step with its `require` condition: where the condition does not hold the step is not enabled and the block waits
(45_bridge_loop.md R220, 60_exceptions.md R256, log 16). -/
def stepIf (enabled : Bool) (t s : State) : Host.Outcome State Fault Refusal := .next (if enabled then t else s)

/-- The `require` of the scanner's rules (40_frame_scanner.md R101 to R104): WAIT_SYNC, three bytes at `pos`, and they are
the window `w`. -/
def State.syncHere (s : State) (w : List Byte) : Bool :=
  decide (s.fsm = .waitSync ∧ s.pos + 3 ≤ s.avail ∧ s.bytes s.pos 3 = w)

/-- The `require` of the message arms (42_message_decoder.md R140, R145 to R153): MESSAGE, the whole frame present, and its id. -/
def State.messageHere (s : State) (id : BitVec 16) : Bool :=
  decide (s.fsm = .message ∧ s.frame.frameEnd ≤ s.avail ∧ s.frame.msgId = id)

/-- Bytes overlaid on the stream at an offset, the stream first padded with zero bytes up to it. -/
def overlay (l : List Byte) (off : Nat) (bs : List Byte) : List Byte :=
  (l ++ List.replicate (off - l.length) 0).take off ++ bs ++ l.drop (off + bs.length)

end Sys2Proof.Machine
end

