-- ==== Sys2Proof/Machine/Header.lean ====
section
/-! DEFINITION. The header parser: the block steps of HEADER and TEXT_SKIP (41_header_decoder.md), the second halves of
SYNC_LONG, SYNC_SHORT and SYNC_INFOTEXT. -/

namespace Sys2Proof.Machine

/-- A field of the open frame's header: `n` bytes at offset `off` from the sync (30_encoding.md R72, R73). -/
def State.headerField (s : State) (off n : Nat) : Nat := s.memRead (s.frame.syncOff + off) n

/-- Latches id, length and frame end, once the header of `hl` bytes is decoded, and goes to MESSAGE (R121, R122, R128). -/
def State.latchFrame (s : State) (hl : Nat) (id len : BitVec 16) : State :=
  (s.withFrame { s.frame with msgId := id, msgLen := len, frameEnd := s.frame.syncOff + hl + len.toNat + 4 }).withFsm .message

/-- Long header decode (R121, offsets of 30_encoding.md R72). -/
def State.decodeLong (s : State) : State :=
  (s.latchFrame 28 (BitVec.ofNat 16 (s.headerField 4 2)) (BitVec.ofNat 16 (s.headerField 8 2))).withHdr
    { s.hdr with
      long := {
        headerLength := BitVec.ofNat 8 (s.headerField 3 1)
        messageType := BitVec.ofNat 8 (s.headerField 6 1)
        portAddress := BitVec.ofNat 8 (s.headerField 7 1)
        sequence := BitVec.ofNat 16 (s.headerField 10 2)
        idleTime := BitVec.ofNat 8 (s.headerField 12 1)
        timeStatus := BitVec.ofNat 8 (s.headerField 13 1)
        week := BitVec.ofNat 16 (s.headerField 14 2)
        ms := BitVec.ofNat 32 (s.headerField 16 4)
        receiverStatus := BitVec.ofNat 32 (s.headerField 20 4)
        reserved := BitVec.ofNat 16 (s.headerField 24 2)
        receiverSwVersion := BitVec.ofNat 16 (s.headerField 26 2) } }

/-- Short header decode (R122, offsets of 30_encoding.md R73). The length is one byte. -/
def State.decodeShort (s : State) : State :=
  (s.latchFrame 12 (BitVec.ofNat 16 (s.headerField 4 2)) (BitVec.ofNat 16 (s.headerField 3 1))).withHdr
    { s.hdr with
      short := {
        weekNumber := BitVec.ofNat 16 (s.headerField 6 2)
        msecFromWeek := BitVec.ofNat 32 (s.headerField 8 4) } }

/-- The InfoText measurement, one byte per step (R123): a text byte is passed; the first other byte ends the run and is not
consumed. -/
def State.textStep (s : State) : State :=
  match s.byteAt s.pos with
  | none => s
  | some b =>
    if textOk b then s.withPos (s.pos + 1)
    else (s.withFrame { s.frame with hl := s.pos - s.frame.syncOff }).withFsm .idle

/-- Header dispatch on the frame kind (R120). The kind Unknown is fatal and unreachable (R253, log 17). -/
def State.headerDecode (s : State) : State :=
  match s.frame.kind with
  | .long => if s.fsm = .header ∧ s.frame.syncOff + 28 ≤ s.avail then s.decodeLong else s
  | .short => if s.fsm = .header ∧ s.frame.syncOff + 12 ≤ s.avail then s.decodeShort else s
  | .infoText => if s.fsm = .textSkip then s.textStep else s
  | .unknown => s.stopWith (.unknownHeaderKind s.frame)

end Sys2Proof.Machine
end

