-- ==== Sys2Proof/Machine/Float64.lean ====
section
/-! DEFINITION. IEEE 754 binary64 arithmetic (00_scope.md R16): every result is computed exactly and rounded once, to
nearest with ties to even. A finite binary64 value is a whole number of units of 2^-1074, so all of it is done with
natural numbers. The values the standard gives for infinities, zeros and NaNs are taken from IEEE 754 (log 12). -/

namespace Sys2Proof

/-- Units of 2^-1074 in 1.0. -/
def F64.one1074 : Nat := 2 ^ 1074

/-- The sign of a value. -/
def F64.sign : F64 → Bool
  | .fin s _ _ => s
  | .inf s => s
  | .nan s _ => s

/-- The magnitude of a finite value in units of 2^-1074: a subnormal is its fraction, a normal value has the implicit bit. -/
def F64.units : F64 → Nat
  | .fin _ e f => if e.val = 0 then f.toNat else (2 ^ 52 + f.toNat) * 2 ^ (e.val - 1)
  | .inf _ => 0
  | .nan _ _ => 0

/-- The value of a finite binary64 in units of 2^-1074, signed. -/
def F64.toInt1074 (x : F64) : Int := if x.sign then -(x.units : Int) else (x.units : Int)

/-- A finite value (not an infinity, not a NaN). -/
def F64.isFinite : F64 → Bool
  | .fin _ _ _ => true
  | _ => false

/-- A NaN. -/
def F64.isNan : F64 → Bool
  | .nan _ _ => true
  | _ => false

/-- The value whose 63 low bits are `mag` (exponent and fraction), or an infinity when the exponent field would not be that
of a finite value. -/
def F64.ofMagnitude (sign : Bool) (mag : Nat) : F64 :=
  if h : mag / 2 ^ 52 < 2047 then .fin sign ⟨mag / 2 ^ 52, h⟩ (BitVec.ofNat 52 mag) else .inf sign

/-- The binary64 value with bit pattern `u` (30_encoding.md R77: bit 63 sign, [62:52] exponent, [51:0] fraction). -/
def F64.ofBits (u : BitVec 64) : F64 :=
  let sign := u.getLsbD 63
  let mag := u.toNat % 2 ^ 63
  if h : mag / 2 ^ 52 < 2047 then .fin sign ⟨mag / 2 ^ 52, h⟩ (BitVec.ofNat 52 mag)
  else if mag % 2 ^ 52 = 0 then .inf sign
  else .nan sign ⟨(mag % 2 ^ 52 - 1) % 4503599627370495, Nat.mod_lt _ (by decide)⟩

/-- The bit pattern of a value (30_encoding.md R77). -/
def F64.toBits (x : F64) : BitVec 64 :=
  let mag := match x with
    | .fin _ e f => e.val * 2 ^ 52 + f.toNat
    | .inf _ => 2047 * 2 ^ 52
    | .nan _ p => 2047 * 2 ^ 52 + (p.val + 1)
  BitVec.ofNat 64 ((if x.sign then 2 ^ 63 else 0) + mag)

/-- The binary64 value nearest `(-1)^sign * (n / d)` units, ties to even (roundTiesToEven); `d` is not 0. The quantum is
`2^j` units, with `j = 0` for subnormals and the smallest normals; a magnitude too great for a finite value rounds to an
infinity. -/
def F64.roundUnits (sign : Bool) (n d : Nat) : F64 :=
  let j := Nat.log2 (n / d) - 52
  let den := d * 2 ^ j
  let q := n / den
  let r := n % den
  let up := decide (den < 2 * r) || (decide (2 * r = den) && decide (q % 2 = 1))
  .ofMagnitude sign (j * 2 ^ 52 + q + (if up then 1 else 0))

/-- The binary64 nearest the decimal literal `(-1)^sign * (n / d)` (00_scope.md R16, decision D33). -/
def F64.literal (sign : Bool) (n d : Nat) : F64 := .roundUnits sign (n * one1074) d

/-- The integer converted to binary64 with roundTiesToEven (42_message_decoder.md R143). -/
def F64.ofInt (v : Int) : F64 := .roundUnits (decide (v < 0)) (v.natAbs * one1074) 1

/-- Some NaN: its sign and payload are free (93_implementation_defined.md I4, log 11). -/
def F64.someNan (src : NanSource) : F64 := .nan (Config.freeNan src).1 (Config.freeNan src).2

/-- Clears the sign (00_scope.md R16). -/
def F64.abs : F64 → F64
  | .fin _ e f => .fin false e f
  | .inf _ => .inf false
  | .nan _ p => .nan false p

/-- `fadd`. An exact zero sum is +0.0 unless both operands have the sign bit. -/
def F64.add (x y : F64) : F64 :=
  match x, y with
  | .fin sx ex fx, .fin sy ey fy =>
    let z := (F64.fin sx ex fx).toInt1074 + (F64.fin sy ey fy).toInt1074
    if z = 0 then .fin (sx && sy) 0 0 else .roundUnits (decide (z < 0)) z.natAbs 1
  | .inf sx, .inf sy => if sx = sy then .inf sx else .someNan (.op .add x y)
  | .inf sx, .fin _ _ _ => .inf sx
  | .fin _ _ _, .inf sy => .inf sy
  | _, _ => .someNan (.op .add x y)

/-- `fsub`: addition of the value with the opposite sign. -/
def F64.sub (x y : F64) : F64 :=
  match y with
  | .fin s e f => .add x (.fin (!s) e f)
  | .inf s => .add x (.inf (!s))
  | .nan _ _ => .someNan (.op .sub x y)

/-- `fmul`. -/
def F64.mul (x y : F64) : F64 :=
  match x, y with
  | .fin sx ex fx, .fin sy ey fy =>
    .roundUnits (sx ^^ sy) ((F64.fin sx ex fx).units * (F64.fin sy ey fy).units) one1074
  | .inf sx, .inf sy => .inf (sx ^^ sy)
  | .inf sx, .fin sy ey fy =>
    if (F64.fin sy ey fy).units = 0 then .someNan (.op .mul x y) else .inf (sx ^^ sy)
  | .fin sx ex fx, .inf sy =>
    if (F64.fin sx ex fx).units = 0 then .someNan (.op .mul x y) else .inf (sx ^^ sy)
  | _, _ => .someNan (.op .mul x y)

/-- `fdiv`. -/
def F64.div (x y : F64) : F64 :=
  match x, y with
  | .fin sx ex fx, .fin sy ey fy =>
    let m := (F64.fin sx ex fx).units
    let n := (F64.fin sy ey fy).units
    if n = 0 then (if m = 0 then .someNan (.op .div x y) else .inf (sx ^^ sy))
    else .roundUnits (sx ^^ sy) (m * one1074) n
  | .inf sx, .fin sy _ _ => .inf (sx ^^ sy)
  | .fin sx _ _, .inf sy => .fin (sx ^^ sy) 0 0
  | _, _ => .someNan (.op .div x y)

/-- The integer square root, by `k` result bits from the top: the greatest `r < 2^k` with `r * r <= n`. -/
def natSqrtBits : Nat → Nat → Nat → Nat
  | 0, _, r => r
  | k + 1, n, r => natSqrtBits k n (if (r + 2 ^ k) * (r + 2 ^ k) ≤ n then r + 2 ^ k else r)

/-- `fsqrt` of a non-negative finite value of `f * 2^t` units, with `0 < f < 2^53`. In units the root is
`sqrt (f * 2^(t+1074))`. Its integer part is taken with at least 56 bits below the leading one and a sticky bit after
them, so one rounding of that is the correct rounding of the root. -/
def F64.sqrtUnits (f t : Nat) : F64 :=
  let p := (t + 1074) % 2
  let h := (t + 1074) / 2
  let n := f * 2 ^ (p + 112)
  let q := natSqrtBits 84 n 0
  let sticky := if q * q = n then 0 else 1
  .roundUnits false ((2 * q + sticky) * 2 ^ (h - 56)) 2

/-- `fsqrt`. -/
def F64.sqrt (x : F64) : F64 :=
  match x with
  | .fin s e f =>
    if e.val = 0 ∧ f.toNat = 0 then .fin s e f
    else if s then .someNan (.op .sqrt x x)
    else if e.val = 0 then sqrtUnits f.toNat 0
    else sqrtUnits (2 ^ 52 + f.toNat) (e.val - 1)
  | .inf false => .inf false
  | .inf true => .someNan (.op .sqrt x x)
  | .nan _ _ => .someNan (.op .sqrt x x)

/-- IEEE `<`: false when either side is a NaN; -0.0 and +0.0 are equal (00_scope.md R16). -/
def F64.lt (x y : F64) : Bool :=
  match x, y with
  | .nan _ _, _ => false
  | _, .nan _ _ => false
  | .fin sx ex fx, .fin sy ey fy => decide ((F64.fin sx ex fx).toInt1074 < (F64.fin sy ey fy).toInt1074)
  | .inf sx, .inf sy => sx && !sy
  | .inf sx, .fin _ _ _ => sx
  | .fin _ _ _, .inf sy => !sy

/-- IEEE `<=`: false when either side is a NaN (00_scope.md R16). -/
def F64.le (x y : F64) : Bool :=
  match x, y with
  | .nan _ _, _ => false
  | _, .nan _ _ => false
  | .fin sx ex fx, .fin sy ey fy => decide ((F64.fin sx ex fx).toInt1074 ≤ (F64.fin sy ey fy).toInt1074)
  | .inf sx, .inf sy => sx || !sy
  | .inf sx, .fin _ _ _ => sx
  | .fin _ _ _, .inf sy => !sy

/-- The whole number nearest `n / 2^1074`, ties to even. -/
def rteUnits (n : Nat) : Nat :=
  let q := n / F64.one1074
  let r := n % F64.one1074
  if F64.one1074 < 2 * r ∨ (2 * r = F64.one1074 ∧ q % 2 = 1) then q + 1 else q

/-- `rte(x)`, roundToIntegralTiesToEven (00_scope.md R16). A value that is not finite has no integer; 0 stands there, and no
rule asks for it (log 13). -/
def F64.rte (x : F64) : Int := if x.sign then -(rteUnits x.units : Int) else (rteUnits x.units : Int)

/-- `rtz(x)`, the integer part toward zero (00_scope.md R16), with the same remark. -/
def F64.rtz (x : F64) : Int :=
  if x.sign then -((x.units / one1074 : Nat) : Int) else ((x.units / one1074 : Nat) : Int)

/-- The binary32 value with bit pattern `u` (30_encoding.md R77: bit 31 sign, [30:23] exponent, [22:0] fraction) converted
to binary64 (42_message_decoder.md R143). A binary32 quantum is 2^-149, that is 2^925 units, and the conversion is exact. A
NaN stays a NaN with free payload. -/
def F64.ofF32 (u : BitVec 32) : F64 :=
  let sign := u.getLsbD 31
  let e := u.toNat / 2 ^ 23 % 256
  let f := u.toNat % 2 ^ 23
  if e = 255 then (if f = 0 then .inf sign else .someNan (.widen u))
  else
    let k := if e = 0 then f else (2 ^ 23 + f) * 2 ^ (e - 1)
    .roundUnits sign (k * 2 ^ 925) 1

end Sys2Proof
end

