-- ==== Sys2Proof/Machine/Operands.lean ====
section
/-! DEFINITION. The operands of the message arms: the field unpacker (42_message_decoder.md R142, R143, R154, 30_encoding.md
R76, R77). -/

namespace Sys2Proof.Machine

/-- A decoded field value (30_encoding.md R77). -/
inductive Value where
  /-- Of an integer type. -/
  | int (v : Int)
  /-- Of type f32, by its bit pattern. -/
  | f32 (u : BitVec 32)
  /-- Of type f64. -/
  | f64 (x : F64)
  /-- Of type bytes(n), not validated (R154). -/
  | raw (bs : List Byte)
deriving DecidableEq, Repr

/-- The value of a field from its bytes in stream order (30_encoding.md R77). -/
def decodeField (t : FieldType) (bs : List Byte) : Value :=
  match t with
  | .u8 => .int (leNat bs : Nat)
  | .i8 => .int (BitVec.ofNat 8 (leNat bs)).toInt
  | .u16 => .int (leNat bs : Nat)
  | .i16 => .int (BitVec.ofNat 16 (leNat bs)).toInt
  | .u32 => .int (leNat bs : Nat)
  | .i32 => .int (BitVec.ofNat 32 (leNat bs)).toInt
  | .u64 => .int (leNat bs : Nat)
  | .i64 => .int (BitVec.ofNat 64 (leNat bs)).toInt
  | .f32 => .f32 (BitVec.ofNat 32 (leNat bs))
  | .f64 => .f64 (.ofBits (BitVec.ofNat 64 (leNat bs)))
  | .bytes _ => .raw bs

/-- `num(v)`: the binary64 value of a numeric field; a bytes field has none (42_message_decoder.md R143). -/
def Value.num : Value → Option F64
  | .int v => some (.ofInt v)
  | .f32 u => some (.ofF32 u)
  | .f64 x => some x
  | .raw _ => none

/-- The decoded field record F (42_message_decoder.md R142), in layout order. -/
abbrev FieldRecord := List (String × Value)

/-- `Unpack(layout, base)` (42_message_decoder.md R142): fields packed in list order with no padding (30_encoding.md R76). -/
def State.unpack (s : State) : Layout → Nat → FieldRecord
  | [], _ => []
  | f :: fs, a => (f.name, decodeField f.type (s.bytes a f.type.width)) :: s.unpack fs (a + f.type.width)

/-- `num(F[name])`, if F has a numeric field of that name. -/
def FieldRecord.num? (r : FieldRecord) (name : String) : Option F64 := (r.lookup name).bind Value.num

/-- `n(name) = num(F[name])` (43_attitude_aggregator.md). A well-formed configuration has every name the updates read
(00_scope.md R11), so the value that stands for a missing one, a NaN, is never taken (log 14). -/
def FieldRecord.num (r : FieldRecord) (name : String) : F64 := (r.num? name).getD (.nan false 0)

/-- The layout of a supported id in the machine's configuration. -/
def State.layout (s : State) (k : MsgKind) : Layout := s.cfg.val.layout k

end Sys2Proof.Machine
end

