-- ==== Sys2Proof/Machine/Attitude.lean ====
section
/-! DEFINITION. The attitude aggregator: candidate states from a decoded record (43_attitude_aggregator.md). -/

namespace Sys2Proof.Machine

/-- 200, the factor of R171 and R172. -/
def twoHundred : F64 := .literal false 200 1

/-- `sqrt(x * x + y * y)`, one rounding per operation (R171, R172). -/
def hypotenuse (x y : F64) : F64 := .sqrt (.add (.mul x x) (.mul y y))

/-- Upd1465 (R171). -/
def upd1465 (f : FieldRecord) (a : Attitude) : Attitude where
  horiz := .div (f.num "up_vel") twoHundred
  vert := .div (hypotenuse (f.num "north_vel") (f.num "east_vel")) twoHundred
  heave := a.heave
  roll := f.num "roll"
  pitch := f.num "pitch"

/-- Upd1708 (R172). -/
def upd1708 (f : FieldRecord) (a : Attitude) : Attitude where
  horiz := .mul (f.num "vertical_acc") twoHundred
  vert := .mul (hypotenuse (f.num "lateral_acc") (f.num "longitudinal_acc")) twoHundred
  heave := a.heave
  roll := .mul (f.num "roll_rate") twoHundred
  pitch := .mul (f.num "pitch_rate") twoHundred

/-- Upd813 (R173): only heave changes. -/
def upd813 (f : FieldRecord) (a : Attitude) : Attitude := { a with heave := f.num "heave" }

/-- The ids that carry nothing: the fields are decoded and dropped (R174). -/
def updNone (_ : FieldRecord) (a : Attitude) : Attitude := a

end Sys2Proof.Machine
end

