-- ==== Sys2Proof/Machine/Flags.lean ====
section
/-! DEFINITION. The conditions the block computes. It has no arithmetic flags and no condition codes (10_state.md R33); what
stands here is the domain check of the candidate state (44_tss1_encoder.md R190). -/

namespace Sys2Proof.Machine

/-- Reads an attitude register (00_scope.md R15). -/
def Attitude.get (a : Attitude) : AttReg → F64
  | .horiz => a.horiz
  | .vert => a.vert
  | .heave => a.heave
  | .roll => a.roll
  | .pitch => a.pitch

/-- The lower end of a register's closed domain (10_state.md R22). -/
def AttReg.low : AttReg → F64
  | .horiz => .zero
  | .vert => .literal true 2048 100
  | .heave => .literal true 9999 100
  | .roll => .literal true 9999 100
  | .pitch => .literal true 9999 100

/-- The upper end of a register's closed domain (10_state.md R22). -/
def AttReg.high : AttReg → F64
  | .horiz => .literal false 981 100
  | .vert => .literal false 2047 100
  | .heave => .literal false 9999 100
  | .roll => .literal false 9999 100
  | .pitch => .literal false 9999 100

/-- `ok(i)` for a value of register `r` (44_tss1_encoder.md R190). A NaN fails. -/
def AttReg.inDomain (r : AttReg) (x : F64) : Bool := r.low.le x && x.le r.high

/-- The five registers in index order. -/
def AttReg.all : List AttReg := [.horiz, .vert, .heave, .roll, .pitch]

/-- `FirstViolation(A)`: the first register, in index order, outside its domain (44_tss1_encoder.md R190). -/
def Attitude.firstViolation (a : Attitude) : Option AttReg := AttReg.all.find? fun r => !(r.inDomain (a.get r))

end Sys2Proof.Machine
end

