-- ==== Sys2Proof/Machine/Encoder.lean ====
section
/-! DEFINITION. The TSS1 ASCII encoder: the record of an attitude state (44_tss1_encoder.md R191 to R199, 30_encoding.md R95). -/

namespace Sys2Proof.Machine

/-- An uppercase hexadecimal digit (00_scope.md R17), of the low four bits of `n`. -/
def hexDigit (n : Nat) : Byte := if n % 16 < 10 then BitVec.ofNat 8 (0x30 + n % 16) else BitVec.ofNat 8 (0x41 + (n % 16 - 10))

/-- A decimal digit (00_scope.md R17), of the units of `n`. -/
def decDigit (n : Nat) : Byte := BitVec.ofNat 8 (0x30 + n % 10)

/-- The horizontal code: rounding below 9.771 (R191), truncation from there (R192) with the clamp to 255 (R193). -/
def horizCode (h : F64) : Nat :=
  let q := F64.div h (.literal false 383 10000)
  if h.lt (.literal false 9771 1000) then q.rte.toNat else min q.rtz.toNat 255

/-- The vertical code as its 16-bit two's-complement pattern (R195). -/
def vertCode (v : F64) : BitVec 16 := BitVec.ofInt 16 (F64.div v (.literal false 625 1000000)).rte

/-- The sign character of heave, roll or pitch: taken from the value, not from its rounded magnitude (R197). -/
def signChar (x : F64) : Byte := if F64.zero.le x then 0x20 else 0x2D

/-- `mag(x) = rte(abs(x) * 100)` (R197). -/
def magnitude (x : F64) : Nat := (F64.mul x.abs (.literal false 100 1)).rte.toNat

/-- `StatusChar(st)` (R199). -/
def statusChar : Status → Byte
  | .active => 0x46
  | .notAligned => 0x48

/-- `Record(A, st)`: the 26 bytes of 30_encoding.md R95, assembled as R198 (`HV_ORDER = horizontal-first`). The vertical
field is rendered low byte first (R196). -/
def recordOf (a : Attitude) (st : Status) : Vector Byte 26 :=
  let h := horizCode a.horiz
  let v := (vertCode a.vert).toNat
  let hv := magnitude a.heave
  let r := magnitude a.roll
  let p := magnitude a.pitch
  #v[0x3A,
     hexDigit (h / 16), hexDigit h,
     hexDigit (v / 16), hexDigit v, hexDigit (v / 4096), hexDigit (v / 256),
     0x20,
     signChar a.heave, decDigit (hv / 1000), decDigit (hv / 100), decDigit (hv / 10), decDigit hv,
     statusChar st,
     signChar a.roll, decDigit (r / 1000), decDigit (r / 100), decDigit (r / 10), decDigit r,
     0x20,
     signChar a.pitch, decDigit (p / 1000), decDigit (p / 100), decDigit (p / 10), decDigit p,
     0x0A]

end Sys2Proof.Machine
end

