-- ==== Sys2Proof/Machine/Messages.lean ====
section
/-! DEFINITION. The message arms: MSG_1462, MSG_1457, MSG_319, MSG_1465, MSG_508, MSG_1708, MSG_1382, MSG_813,
MSG_UNSUPPORTED (42_message_decoder.md), and the disposition of a decoded frame (45_bridge_loop.md R226). -/

namespace Sys2Proof.Machine

/-- `Dispose(A')`: the candidate is checked, then committed as a whole and its record built, or the frame is aborted
(45_bridge_loop.md R226, 43_attitude_aggregator.md R175). -/
def State.dispose (s : State) (cand : Attitude) : State :=
  match cand.firstViolation with
  | some r => s.abortFrame (.outOfRange r s.frame)
  | none => (((s.withArf cand).withTx ⟨recordOf cand s.status, 0⟩).withPos s.frame.frameEnd).withFsm .emit

/-- The decoded record of the open frame under the layout of id `k` (42_message_decoder.md R142). -/
def State.fieldsOf (s : State) (k : MsgKind) : FieldRecord := s.unpack (s.layout k) (s.frame.syncOff + s.frame.hl)

/-- The body every supported arm shares: the length check (42_message_decoder.md R144), the unpacker (R142), the update, and
the disposition. -/
def State.supported (s : State) (k : MsgKind) (upd : FieldRecord → Attitude → Attitude) : State :=
  if s.frame.msgLen.toNat < (s.layout k).size then s.abortFrame (.lengthMismatch s.frame)
  else s.dispose (upd (s.fieldsOf k) s.arf)

/-- MSG_1462 (R145). -/
def execMsg1462 (s : State) : Host.Outcome State Fault Refusal :=
  stepIf (s.messageHere 1462) (s.supported .m1462 updNone) s

/-- MSG_1457 (R146). -/
def execMsg1457 (s : State) : Host.Outcome State Fault Refusal :=
  stepIf (s.messageHere 1457) (s.supported .m1457 updNone) s

/-- MSG_319 (R147). -/
def execMsg319 (s : State) : Host.Outcome State Fault Refusal :=
  stepIf (s.messageHere 319) (s.supported .m319 updNone) s

/-- MSG_1465 (R148, update R171). -/
def execMsg1465 (s : State) : Host.Outcome State Fault Refusal :=
  stepIf (s.messageHere 1465) (s.supported .m1465 upd1465) s

/-- MSG_508 (R149). -/
def execMsg508 (s : State) : Host.Outcome State Fault Refusal :=
  stepIf (s.messageHere 508) (s.supported .m508 updNone) s

/-- MSG_1708 (R150, update R172). -/
def execMsg1708 (s : State) : Host.Outcome State Fault Refusal :=
  stepIf (s.messageHere 1708) (s.supported .m1708 upd1708) s

/-- MSG_1382 (R151): it does not update HEAVE. -/
def execMsg1382 (s : State) : Host.Outcome State Fault Refusal :=
  stepIf (s.messageHere 1382) (s.supported .m1382 updNone) s

/-- MSG_813 (R152, update R173). -/
def execMsg813 (s : State) : Host.Outcome State Fault Refusal :=
  stepIf (s.messageHere 813) (s.supported .m813 upd813) s

/-- MSG_UNSUPPORTED (R153), for a frame whose id is `id`, none of the eight: the frame is consumed by its declared length. -/
def execMsgUnsupported (id : BitVec 16) (s : State) : Host.Outcome State Fault Refusal :=
  stepIf (s.messageHere id && notSupportedId id) (s.abortFrame (.unsupported s.frame)) s

end Sys2Proof.Machine
end

