-- ==== Sys2Proof/Machine/Scanner.lean ====
section
/-! DEFINITION. The frame scanner: SYNC_LONG, SYNC_SHORT, SYNC_INFOTEXT, SYNC_NONE (40_frame_scanner.md). -/

namespace Sys2Proof.Machine

/-- A sync match ends the run of discarded bytes: one FramingFault if there is one, and the run registers cleared (R101,
R107). -/
def State.endDiscardRun (s : State) : State :=
  (if 0 < s.disc.cnt then s.raise (.framing s.disc) else s).withDisc ⟨0, 0⟩

/-- What every sync match does: it ends the discard run and latches kind and offset (R101, R102, R104). -/
def State.matchSync (s : State) (k : FrameKind) : State :=
  s.endDiscardRun.withFrame { s.frame with kind := k, syncOff := s.pos }

/-- A match of a kind with a fixed header of `hl` bytes: on to HEADER, `pos` left at the frame's first byte (R101, R102). -/
def State.openFrame (s : State) (k : FrameKind) (hl : Nat) : State :=
  ((s.matchSync k).withFrame { s.frame with kind := k, syncOff := s.pos, hl := hl }).withFsm .header

/-- A failed sync test discards one byte (R103). -/
def State.discardByte (s : State) : State :=
  (s.withDisc ⟨s.disc.cnt + 1, if s.disc.cnt = 0 then s.pos else s.disc.start⟩).withPos (s.pos + 1)

/-- SYNC_LONG (R101). -/
def execSyncLong (s : State) : Host.Outcome State Fault Refusal :=
  stepIf (s.syncHere [0xAA, 0x44, 0x12]) (s.openFrame .long 28) s

/-- SYNC_SHORT (R102). -/
def execSyncShort (s : State) : Host.Outcome State Fault Refusal :=
  stepIf (s.syncHere [0xAA, 0x44, 0x13]) (s.openFrame .short 12) s

/-- SYNC_INFOTEXT (R104): the three sync bytes are passed at once, the rest of the run is measured in TEXT_SKIP. -/
def execSyncInfoText (s : State) : Host.Outcome State Fault Refusal :=
  stepIf (s.syncHere [0x3C, 0x49, 0x4E]) (((s.matchSync .infoText).withPos (s.pos + 3)).withFsm .textSkip) s

/-- SYNC_NONE (R103), for the window `b0 b1 b2`, which must be no sync word. -/
def execSyncNone (b0 b1 b2 : Byte) (s : State) : Host.Outcome State Fault Refusal :=
  stepIf (s.syncHere [b0, b1, b2] && notSyncWord b0 b1 b2) s.discardByte s

end Sys2Proof.Machine
end

