-- ==== Sys2Proof/Machine/Bridge.lean ====
section
/-! DEFINITION. The bridge loop: which block step is taken, the steps that run no instruction, the host controls and reset
(45_bridge_loop.md, 60_exceptions.md R261, 70_reset_and_hazards.md R280). -/

namespace Sys2Proof.Machine

/-! ## Conditions, in the order of priority (60_exceptions.md R261) -/

/-- An I/O failure is to be taken (R230). -/
def State.failing (s : State) : Bool := (s.host.srcFail || s.host.sinkFail) && decide (s.fsm ≠ .stopped)

/-- A stop request is to be taken: in every control state but EMIT and STOPPED (R229). -/
def State.stopping (s : State) : Bool := s.host.stopReq && decide (s.fsm ≠ .emit) && decide (s.fsm ≠ .stopped)

/-- The condition of the control state's own row of the transition table (R220). -/
def State.rowReady (s : State) : Bool :=
  match s.fsm with
  | .idle => true
  | .waitSync => decide (s.pos + 3 ≤ s.avail)
  | .textSkip => decide (s.pos + 1 ≤ s.avail)
  | .header => decide (s.frame.syncOff + s.frame.hl ≤ s.avail)
  | .message => decide (s.frame.frameEnd ≤ s.avail)
  | .emit => decide (s.tx.ocnt < 26) && s.host.outReady
  | .stopped => false

/-- A block step is enabled (R220). Where none is, the block is quiescent (R234). -/
def State.blockEnabled (s : State) : Bool := s.failing || s.stopping || s.rowReady

/-! ## The fetch (30_encoding.md R90) -/

/-- The instruction of the next block step: in WAIT_SYNC the window at `pos` selects it, in MESSAGE the latched id of a whole
frame; where bytes are missing (R105, R140), or a failure or a stop comes first, there is none. -/
def State.fetch (s : State) : Option Instr :=
  if s.failing || s.stopping || !s.rowReady then none
  else
    match s.fsm with
    | .waitSync =>
      match decode .sync (s.bytes s.pos 3) with
      | .ok (i, _) => some i
      | .error _ => none
    | .message =>
      match decode .msgId (leBytes 2 s.frame.msgId.toNat) with
      | .ok (i, _) => some i
      | .error _ => none
    | _ => none

/-! ## The block steps that run no instruction -/

/-- The EMIT step: one byte of the record is delivered on the handshake (R227). -/
def State.deliver (s : State) : State :=
  if h : s.tx.ocnt < 26 then
    let t := (s.emitBytes [s.tx.obuf[s.tx.ocnt]]).withTx { s.tx with ocnt := s.tx.ocnt + 1 }
    if s.tx.ocnt + 1 = 26 then t.withFsm .idle else t
  else s

/-- The I/O failure step (R230, 60_exceptions.md R259). -/
def State.ioFail (s : State) : State := s.stopWith (.ioFailure s.pos s.host.srcFail s.host.sinkFail)

/-- The row of the transition table that runs no instruction (R220, R221, R223, R224, R227, R229, R230, R231). In WAIT_SYNC
and MESSAGE there is none: the block waits. -/
def State.control (s : State) : State :=
  if s.failing then s.ioFail
  else if s.stopping then s.withFsm .stopped
  else if s.rowReady then
    match s.fsm with
    | .idle => s.withFsm .waitSync
    | .textSkip => s.headerDecode
    | .header => s.headerDecode
    | .emit => s.deliver
    | .waitSync => s
    | .message => s
    | .stopped => s
  else s

/-! ## Reset (70_reset_and_hazards.md R280, R281, 10_state.md R31) -/

/-- Every state element takes its reset value; O, the events already presented, the configuration and the host's side stay
(log 8). -/
def State.applyReset (s : State) : State :=
  { State.reset with cfg := s.cfg, out := s.out, events := s.events, host := s.host }

/-! ## Turns (log 3) -/

/-- What a turn changes on the host's own side of the ports. -/
def State.hostSide (s : State) : Turn → State
  | .block => s
  | .recv => s
  | .present b => s.withHost { s.host with inq := s.host.inq ++ [b] }
  | .ready v => s.withHost { s.host with outReady := v }
  | .stop v => s.withHost { s.host with stopReq := v }
  | .srcFail v => s.withHost { s.host with srcFail := v }
  | .sinkFail v => s.withHost { s.host with sinkFail := v }
  | .status _ => s
  | .rst v => s.withHost { s.host with rst := v }

/-- What the arbitration of a turn answers: a host step, done, or the state in which the block takes its step. -/
inductive Choice where
  | done (t : State)
  | block (t : State)
deriving DecidableEq, Repr

/-- Takes a turn. While `rst` is asserted, and on its release, every state element takes its reset value, before anything
else (60_exceptions.md R261, log 7). -/
def State.takeTurn (s : State) (t : Turn) : Choice :=
  let s' := s.hostSide t
  if s.host.rst || s'.host.rst then .done s'.applyReset
  else
    match t with
    | .block => .block s'
    | .recv => .done s'.recv
    | .status v => .done (s'.withStatus v)
    | .present _ => .done s'
    | .ready _ => .done s'
    | .stop _ => .done s'
    | .srcFail _ => .done s'
    | .sinkFail _ => .done s'
    | .rst _ => .done s'

/-- Whose turn it is. The schedule says; where it is empty, the block's if a block step is enabled, and otherwise the input
handshake's (log 4). -/
def State.arbitrate (s : State) : Choice :=
  match s.host.sched with
  | t :: ts => (s.withSched ts).takeTurn t
  | [] => s.takeTurn (if s.blockEnabled then .block else .recv)

/-! ## Where the fetch finds a given instruction word (log 19) -/

/-- The host's side with no line raised and nothing scheduled, so that the block takes the next step. -/
def HostSide.undisturbed (h : HostSide) : HostSide :=
  { h with rst := false, stopReq := false, srcFail := false, sinkFail := false, sched := [] }

/-- The three bytes of a `SYNC24` word stored at the cursor, with the block in WAIT_SYNC. -/
def State.placeSync (s : State) (w : Nat) : State :=
  ((s.withInput (overlay s.input s.pos (syncWordBytes w))).withFsm .waitSync).withHost s.host.undisturbed

/-- A whole Long frame with the message id `w`, an empty payload and a zero CRC, stored at the cursor, its header decoded and
the block in MESSAGE. -/
def State.placeMessage (s : State) (w : Nat) : State :=
  let bytes : List Byte := [0xAA, 0x44, 0x12, 0x1C] ++ leBytes 2 w ++ List.replicate 26 0
  let frame : FrameLatches :=
    { kind := .long, syncOff := s.pos, hl := 28, msgId := BitVec.ofNat 16 w, msgLen := 0, frameEnd := s.pos + 32 }
  (((s.withInput (overlay s.input s.pos bytes)).withFrame frame).withFsm .message).withHost s.host.undisturbed

/-- The word stored where the next step fetches it: a 16-bit word is a message id, any other a sync window (log 20). -/
def State.placeWord (s : State) (nbits w : Nat) : State :=
  if nbits = 16 then s.placeMessage w else s.placeSync w

end Sys2Proof.Machine
end

