-- ==== Sys2Proof/Machine/Dispatch.lean ====
section
/-! DEFINITION. One arm per instruction: the meaning it has. -/

namespace Sys2Proof.Machine

def exec (i : Instr) (s : State) : Host.Outcome State Fault Refusal :=
  match i with
  | .syncLong => Sys2Proof.Machine.execSyncLong s
  | .syncShort => Sys2Proof.Machine.execSyncShort s
  | .syncInfoText => Sys2Proof.Machine.execSyncInfoText s
  | .syncNone b0 b1 b2 => Sys2Proof.Machine.execSyncNone b0 b1 b2 s
  | .msg1462 => Sys2Proof.Machine.execMsg1462 s
  | .msg1457 => Sys2Proof.Machine.execMsg1457 s
  | .msg319 => Sys2Proof.Machine.execMsg319 s
  | .msg1465 => Sys2Proof.Machine.execMsg1465 s
  | .msg508 => Sys2Proof.Machine.execMsg508 s
  | .msg1708 => Sys2Proof.Machine.execMsg1708 s
  | .msg1382 => Sys2Proof.Machine.execMsg1382 s
  | .msg813 => Sys2Proof.Machine.execMsg813 s
  | .msgUnsupported id => Sys2Proof.Machine.execMsgUnsupported id s

end Sys2Proof.Machine
end

