-- ==== Sys2Proof/Machine/Step.lean ====
section
/-! DEFINITION. One step of the machine: one turn, of the host or of the block (10_state.md R20). -/

namespace Sys2Proof.Machine

/-- One block step: the instruction fetched, or the control state's own row (45_bridge_loop.md R220). -/
def blockStep (s : State) : Host.Outcome State Fault Refusal :=
  match s.fetch with
  | some i => exec i s
  | none => .next s.control

/-- One step: the turn the arbitration gives. -/
def step (s : State) : Host.Outcome State Fault Refusal :=
  match s.arbitrate with
  | .done t => .next t
  | .block t => blockStep t

/-- `s` with an opcode-table word stored where the next step fetches its instruction (log 19). -/
def State.withFetchWord (s : State) (nbits w : Nat) : State := s.placeWord nbits w

end Sys2Proof.Machine
end

