-- ==== Sys2Proof/Machine/Ports.lean ====
section
/-! DEFINITION. The block's outputs, as functions of the state (20_memory.md R51, R56, 45_bridge_loop.md R231,
60_exceptions.md R251, R269). -/

namespace Sys2Proof.Machine

/-- The numeric value of a control state (10_state.md R26). -/
def Fsm.code : Fsm → BitVec 3
  | .idle => 0
  | .waitSync => 1
  | .textSkip => 2
  | .header => 3
  | .message => 4
  | .emit => 5
  | .stopped => 6

/-- The bit of STATUS (10_state.md R23). -/
def Status.bit : Status → BitVec 1
  | .active => 0
  | .notAligned => 1

/-- `fsm_state[2:0]`, a read-only copy of `fsm` (60_exceptions.md R269). -/
def State.fsmState (s : State) : BitVec 3 := s.fsm.code

/-- `stopped = 1` exactly when `fsm = STOPPED` (45_bridge_loop.md R231). -/
def State.stoppedOut (s : State) : Bool := decide (s.fsm = .stopped)

/-- `in_ready`: bytes are accepted in every control state except STOPPED (20_memory.md R52), and not under reset. -/
def State.inReady (s : State) : Bool := decide (s.fsm ≠ .stopped) && !s.host.rst

/-- `in_valid` and `in_data`: the byte the host presents (20_memory.md R51). -/
def State.inData (s : State) : Option Byte := s.host.inq.head?

/-- `out_valid` and `out_data`: a byte is presented only in EMIT, and what is presented to a ready sink is delivered
(20_memory.md R56). So none is presented while a failure is pending, where the next block step delivers nothing (45_bridge_loop.md
R230, 60_exceptions.md R261), nor under reset (DEDUCED, log 28). -/
def State.outData (s : State) : Option Byte :=
  if s.fsm = .emit ∧ s.failing = false ∧ s.host.rst = false then s.tx.obuf[s.tx.ocnt]? else none

/-- `evt_valid` and the event signals of the step from `s` to `t` (60_exceptions.md R251). -/
def State.evtOut (s t : State) : Option Event := t.events[s.events.length]?

end Sys2Proof.Machine
end

