-- ==== Sys2Proof/Machine/Stream.lean ====
section
/-! DEFINITION. The stream notation (30_encoding.md R83): the items a stream program is written in, and the bytes they stand
for. The block has no assembler; this is the spec's own way to write test inputs. -/

namespace Sys2Proof.Machine

/-- An item of a stream program. The defaults are those of R83; `len := none` stands for the payload's byte count. -/
inductive Item where
  /-- `RAW <hex bytes>`. -/
  | raw (bs : List Byte)
  /-- `TEXT "<chars>"`. -/
  | text (cs : List Char)
  /-- `LONG id= len= hlb= seq= week= ms= payload= crc=`. -/
  | long (id : BitVec 16) (payload : List Byte) (len : Option Nat := none) (hlb : Byte := 0x1C) (seq : BitVec 16 := 0)
      (week : BitVec 16 := 0) (ms : BitVec 32 := 0) (crc : List Byte := [0, 0, 0, 0])
  /-- `SHORT id= len= week= msec= payload= crc=`. -/
  | short (id : BitVec 16) (payload : List Byte) (len : Option Nat := none) (week : BitVec 16 := 0)
      (msec : BitVec 32 := 0) (crc : List Byte := [0, 0, 0, 0])

/-- `F64 x` inside a payload: the 8 little-endian bytes of a binary64 value. -/
def f64Bytes (x : F64) : List Byte := leBytes 8 x.toBits.toNat

/-- `F32 x` inside a payload: the 4 little-endian bytes of a binary32 pattern. -/
def f32Bytes (u : BitVec 32) : List Byte := leBytes 4 u.toNat

/-- The bytes of an item; the header layouts are those of R72 and R73. R83 bounds its items: TEXT characters below 0x80, a Short
length of at most 255, a length that fits its field, a crc of 4 bytes. An item outside these bounds is none of the notation, and
R83 gives it no bytes. Here it is expanded all the same: a character modulo 256, a length modulo 256 (Short) or 65536 (Long), a
crc as it is (DESIGN CHOICE, log 29). -/
def Item.expand : Item → List Byte
  | .raw bs => bs
  | .text cs => cs.map fun c => BitVec.ofNat 8 c.toNat
  | .long id payload len hlb seq week ms crc =>
    [0xAA, 0x44, 0x12, hlb] ++ leBytes 2 id.toNat ++ [0, 0] ++ leBytes 2 (len.getD payload.length) ++ leBytes 2 seq.toNat
      ++ [0, 0] ++ leBytes 2 week.toNat ++ leBytes 4 ms.toNat ++ List.replicate 8 0 ++ payload ++ crc
  | .short id payload len week msec crc =>
    [0xAA, 0x44, 0x13, BitVec.ofNat 8 (len.getD payload.length)] ++ leBytes 2 id.toNat ++ leBytes 2 week.toNat
      ++ leBytes 4 msec.toNat ++ payload ++ crc

/-- The bytes of a stream program: its items in order. -/
def streamBytes (p : List Item) : List Byte := p.flatMap Item.expand

end Sys2Proof.Machine
end

