-- ==== Sys2Proof/Safety.lean ====
section
/-! DEFINITION. The terms the statements use: the machine invariant, a quiet host, reading a record back, and
rounding once. -/

namespace Sys2Proof

/-- `x` is the exact quotient `n / d` units of 2^-1074, with the sign `sgn`, rounded once with roundTiesToEven (00_scope.md
R16): it is finite exactly where the quotient is below the half-way point above the greatest finite value, and else an infinity
(log 12); where it is finite no finite magnitude is nearer, and where another is as near its last fraction bit is 0. -/
def F64.IsRounding (x : F64) (sgn : Bool) (n d : Nat) : Prop :=
  x.sign = sgn ∧ (if n < d * ((2 ^ 54 - 1) * 2 ^ 2044) then x.isFinite = true else x = .inf sgn) ∧
    (x.isFinite = true → ∀ y : F64, y.isFinite = true →
      ((x.units : Int) * d - n).natAbs ≤ ((y.units : Int) * d - n).natAbs ∧
      (((x.units : Int) * d - n).natAbs = ((y.units : Int) * d - n).natAbs → y.units ≠ x.units →
        x.toBits.getLsbD 0 = false))

end Sys2Proof

namespace Sys2Proof.Machine

/-- An open Long or Short frame: the cursor stands at its first byte (10_state.md R24), its sync word was matched there
(40_frame_scanner.md R106), and its header length is the fixed one (41_header_decoder.md R127, R130). -/
def State.FrameOpen (s : State) : Prop :=
  s.pos = s.frame.syncOff ∧ s.frame.syncOff + 3 ≤ s.avail ∧
    ((s.frame.kind = .long ∧ s.frame.hl = 28 ∧ s.bytes s.frame.syncOff 3 = [0xAA, 0x44, 0x12]) ∨
      (s.frame.kind = .short ∧ s.frame.hl = 12 ∧ s.bytes s.frame.syncOff 3 = [0xAA, 0x44, 0x13]))

/-- The decoded header of an open frame: the latches hold what the stream holds (41_header_decoder.md R121, R122), and the
frame end is the sum of 30_encoding.md R75. -/
def State.HeaderDecoded (s : State) : Prop :=
  s.frame.syncOff + s.frame.hl ≤ s.avail ∧
    s.frame.frameEnd = s.frame.syncOff + s.frame.hl + s.frame.msgLen.toNat + 4 ∧
    s.frame.msgId.toNat = s.memRead (s.frame.syncOff + 4) 2 ∧
    (s.frame.kind = .long → s.frame.msgLen.toNat = s.memRead (s.frame.syncOff + 8) 2) ∧
    (s.frame.kind = .short → s.frame.msgLen.toNat = s.memRead (s.frame.syncOff + 3) 1)

/-- An InfoText run being measured: every byte from the sync on is a text byte (30_encoding.md R74). -/
def State.TextRun (s : State) : Prop :=
  s.frame.kind = .infoText ∧ s.frame.syncOff + 3 ≤ s.pos ∧
    ∀ b ∈ s.bytes s.frame.syncOff (s.pos - s.frame.syncOff), textOk b = true

/-- The invariant of the machine. -/
structure State.Inv (s : State) : Prop where
  /-- Every attitude register lies in its domain (10_state.md R37). -/
  arfInDomain : ∀ r : AttReg, r.inDomain (s.arf.get r) = true
  /-- The cursor does not pass the accepted bytes (20_memory.md R50). -/
  posLe : s.pos ≤ s.avail
  /-- `ocnt` counts at most 26 bytes (10_state.md R32). -/
  ocntLe : s.tx.ocnt ≤ 26
  /-- In EMIT a byte of the record is still to be delivered (45_bridge_loop.md R227). -/
  emitting : s.fsm = .emit → s.tx.ocnt < 26
  /-- HEADER and MESSAGE are entered with an open frame only. -/
  opened : s.fsm = .header ∨ s.fsm = .message → s.FrameOpen
  /-- MESSAGE is entered with a decoded header only. -/
  decoded : s.fsm = .message → s.HeaderDecoded
  /-- TEXT_SKIP is entered with an InfoText run only. -/
  text : s.fsm = .textSkip → s.TextRun
  /-- A discard run is open only while searching, or after a stop in the search (10_state.md R30). -/
  discOpen : 0 < s.disc.cnt → s.fsm = .waitSync ∨ s.fsm = .stopped
  /-- An open discard run ends at the cursor: one byte per failed test (40_frame_scanner.md R103, R109). -/
  discRun : 0 < s.disc.cnt → s.disc.start + s.disc.cnt = s.pos
  /-- While `rst` is asserted every state element has its reset value (70_reset_and_hazards.md R280). -/
  held : s.host.rst = true → s.applyReset = s

/-- The little-endian sum of 00_scope.md R14 over the bytes at stream offsets `off .. off + n - 1`, written out from the rule, so
that statements do not rest on the machine's own `memRead`. -/
def State.sumAt (s : State) (off n : Nat) : Nat :=
  ((List.range n).map fun k => ((s.byteAt (off + k)).getD 0).toNat * 256 ^ k).sum

/-- The two's-complement reading of a `w`-bit pattern (30_encoding.md R77). -/
def signedOf (w u : Nat) : Int := if u < 2 ^ (w - 1) then (u : Int) else (u : Int) - 2 ^ w

/-- The host raises no line: no reset, no stop, no failure. -/
def HostSide.Quiet (h : HostSide) : Prop :=
  h.rst = false ∧ h.stopReq = false ∧ h.srcFail = false ∧ h.sinkFail = false

/-- The state after the turn the schedule has next was taken off it. -/
def State.popped (s : State) : State := s.withSched s.host.sched.tail

/-- The next turn is a block turn: the schedule has one, or it is empty and a block step is enabled (log 4). -/
def State.BlockTurn (s : State) : Prop :=
  s.host.sched.head? = some .block ∨ (s.host.sched = [] ∧ s.blockEnabled = true)

/-- `k` steps, stopping at the first fault or refusal. -/
def stepN : Nat → State → Host.Outcome State Fault Refusal
  | 0, s => .next s
  | k + 1, s =>
    match step s with
    | .next t => stepN k t
    | .fault r => .fault r
    | .refused r => .refused r

/-- The five message rows that carry nothing, with their ids and layouts (43_attitude_aggregator.md R174). -/
def plainRows : List (Instr × BitVec 16 × MsgKind) :=
  [(.msg1462, 1462, .m1462), (.msg1457, 1457, .m1457), (.msg319, 319, .m319), (.msg508, 508, .m508), (.msg1382, 1382, .m1382)]

/-- The three message rows that update the attitude state, with their ids, layouts and updates (43_attitude_aggregator.md
R170). -/
def updatingRows : List (Instr × BitVec 16 × MsgKind × (FieldRecord → Attitude → Attitude)) :=
  [(.msg1465, 1465, .m1465, upd1465), (.msg1708, 1708, .m1708, upd1708), (.msg813, 813, .m813, upd813)]

/-- The value of an uppercase hexadecimal digit character (00_scope.md R17). -/
def hexValue (b : Byte) : Nat := if b.toNat < 0x41 then b.toNat - 0x30 else b.toNat - 0x41 + 10

/-- The value of a decimal digit character (00_scope.md R17). -/
def decValue (b : Byte) : Nat := b.toNat - 0x30

/-- The character is an uppercase hexadecimal digit. -/
def isHexChar (b : Byte) : Bool := (decide (0x30 ≤ b.toNat) && decide (b.toNat ≤ 0x39)) || (decide (0x41 ≤ b.toNat) && decide (b.toNat ≤ 0x46))

/-- The character is a decimal digit. -/
def isDecChar (b : Byte) : Bool := decide (0x30 ≤ b.toNat) && decide (b.toNat ≤ 0x39)

/-- The character is a sign: `' '` or `'-'`. -/
def isSignChar (b : Byte) : Bool := decide (b = 0x20) || decide (b = 0x2D)

/-- The number four decimal digit characters of a record stand for, from position `k` on. -/
def recordDec (r : Vector Byte 26) (k : Nat) : Nat :=
  1000 * decValue (r.toList.getD k 0) + 100 * decValue (r.toList.getD (k + 1) 0) + 10 * decValue (r.toList.getD (k + 2) 0)
    + decValue (r.toList.getD (k + 3) 0)

/-- The number two hexadecimal digit characters of a record stand for, from position `k` on. -/
def recordHex (r : Vector Byte 26) (k : Nat) : Nat :=
  16 * hexValue (r.toList.getD k 0) + hexValue (r.toList.getD (k + 1) 0)

end Sys2Proof.Machine
end

