-- ==== Sys2Proof/Certificates/Slice0/Obligations.lean ====
section
/-! DEFINITION. The statements for the provers. -/

open Sys2Proof Sys2Proof.Machine

/-! ## Reset and the host -/

/-- R280, R31: while `rst` is asserted (it was, or this turn asserts it), and on its release, every state element takes its
reset value, whatever the control state and whatever else is pending; O stays. R281: no event is raised, and the bytes the host
presents stay with it, to be accepted afterwards; only its own turn adds one. The turns are the model's own (log 3). That a
status write taken under reset is lost, by the priority of R261, and that a byte presented under reset stays with the host, is the
model's reading (log 7). -/
def Obligations.ResetGivesEveryResetValue : Prop :=
  ∀ s : State, s.host.rst = true ∨ s.host.sched.head? = some (.rst true) →
    ∃ t, step s = .next t ∧ (∀ r : AttReg, (t.arf.get r).toBits = 0) ∧ t.status = .active ∧ t.pos = 0 ∧ t.input = [] ∧
      t.fsm = .idle ∧ t.frame = ⟨.unknown, 0, 0, 0, 0, 0⟩ ∧ t.hdr = ⟨⟨0, 0, 0, 0, 0, 0, 0, 0, 0, 0, 0⟩, ⟨0, 0⟩⟩ ∧
      t.disc = ⟨0, 0⟩ ∧ t.tx.obuf.toList = List.replicate 26 0 ∧ t.tx.ocnt = 0 ∧ t.out = s.out ∧
      s.evtOut t = none ∧ (∀ b, s.host.sched.head? = some (.present b) → t.host.inq = s.host.inq ++ [b]) ∧
      ((∀ b, s.host.sched.head? ≠ some (.present b)) → t.host.inq = s.host.inq)

/-- R282: after power-on the block is IDLE at offset 0 with no frame open, its first block step is the IDLE step, and the
record of the reset state is `:000000  0000F 0000  0000` and a line feed. That the first step is the block's is the model's
choice of an empty schedule and quiet lines (log 4, log 9). -/
def Obligations.PowerOnEntryPoint : Prop :=
  State.reset.fsm = .idle ∧ State.reset.pos = 0 ∧ State.reset.frame.kind = .unknown ∧
    step State.reset = .next { State.reset with fsm := .waitSync } ∧
    (recordOf State.reset.arf State.reset.status).toList =
      [0x3A, 0x30, 0x30, 0x30, 0x30, 0x30, 0x30, 0x20, 0x20, 0x30, 0x30, 0x30, 0x30, 0x46, 0x20, 0x30, 0x30, 0x30, 0x30,
        0x20, 0x20, 0x30, 0x30, 0x30, 0x30, 0x0A]

/-- R51: a byte presented is accepted by the handshake, in every control state except STOPPED: it is appended to S and leaves
the host's queue, and nothing else changes. The handshake's turn is one the schedule names, or the default turn of an
empty schedule where no block step is enabled (log 4). -/
def Obligations.RecvAppendsTheByte : Prop :=
  ∀ (s : State) (b : Byte) (bs : List Byte),
    s.host.sched.head? = some .recv ∨ (s.host.sched = [] ∧ s.blockEnabled = false) → s.host.rst = false →
    s.fsm ≠ .stopped → s.host.inq = b :: bs →
    step s = .next { s with
      input := s.input ++ [b], host := { s.host with inq := bs, sched := s.host.sched.tail } }

/-- R232: a status write sets STATUS in any control state and changes nothing else. -/
def Obligations.StatusWriteSetsStatus : Prop :=
  ∀ (s : State) (v : Status), s.host.sched.head? = some (.status v) → s.host.rst = false →
    step s = .next { s.popped with status := v }

/-- The host's other turns drive its lines and present bytes, under reset too; without reset the block's state is untouched. A
turn of `rst` sets that line to the value driven, so reset is released by it (R280), and a byte presented under reset stays
with the host (R281). The turns are the model's way to interleave host and block (log 3). -/
def Obligations.HostTurnsDriveTheLines : Prop :=
  ∀ (s : State) (us : List Turn) (u : Turn) (h : HostSide), s.host.sched = u :: us →
    ((∃ b, u = .present b ∧ h = { s.host with sched := us, inq := s.host.inq ++ [b] }) ∨
      (∃ v, u = .ready v ∧ h = { s.host with sched := us, outReady := v }) ∨
      (∃ v, u = .stop v ∧ h = { s.host with sched := us, stopReq := v }) ∨
      (∃ v, u = .srcFail v ∧ h = { s.host with sched := us, srcFail := v }) ∨
      (∃ v, u = .sinkFail v ∧ h = { s.host with sched := us, sinkFail := v }) ∨
      (∃ v, u = .rst v ∧ h = { s.host with sched := us, rst := v })) →
    ∃ t, step s = .next t ∧ t.host = h ∧ (s.host.rst = false → h.rst = false → t = { s with host := h })

/-! ## The rows of the transition table that run no instruction -/

/-- R221: the IDLE step, when neither a failure nor a stop is pending. -/
def Obligations.IdleStepStartsSearching : Prop :=
  ∀ s : State, s.host.Quiet → s.BlockTurn → s.fsm = .idle → step s = .next { s.popped with fsm := .waitSync }

/-- R229: a stop request is honoured in IDLE, WAIT_SYNC, TEXT_SKIP, HEADER and MESSAGE: STOPPED, and nothing else changes. -/
def Obligations.StopRequestDropsTheFrame : Prop :=
  ∀ s : State, s.host.rst = false → s.host.srcFail = false → s.host.sinkFail = false → s.host.stopReq = true →
    s.BlockTurn → s.fsm ∈ [Fsm.idle, .waitSync, .textSkip, .header, .message] →
    step s = .next { s.popped with fsm := .stopped }

/-- R230, R261: a source or sink failure stops the block from every control state but STOPPED, before a stop request, with one
IoFailure event; nothing else changes. -/
def Obligations.IoFailureStopsTheBlock : Prop :=
  ∀ s : State, s.host.rst = false → s.host.srcFail = true ∨ s.host.sinkFail = true → s.fsm ≠ .stopped → s.BlockTurn →
    step s = .next { s.popped with
      fsm := .stopped
      events := s.events ++ [⟨7, 0, 0, BitVec.ofNat 32 s.pos,
        if s.host.srcFail = true ∧ s.host.sinkFail = true then 3 else if s.host.srcFail = true then 1 else 2⟩] }

/-- R231, R52, R269: in STOPPED no block step and no `Recv` has any effect (a wait, log 5, also as the default turn of an empty
schedule, log 4). The outputs: `stopped` is 1 exactly there, `in_ready` is 1 exactly elsewhere (and not under reset, log 24),
and `fsm_state` is the number of the control state. -/
def Obligations.StoppedIsTerminal : Prop :=
  ∀ s : State,
    (s.stoppedOut = true ↔ s.fsm = .stopped) ∧
    (s.inReady = true ↔ s.fsm ≠ .stopped ∧ s.host.rst = false) ∧
    (∀ p ∈ [(Fsm.idle, (0 : BitVec 3)), (.waitSync, 1), (.textSkip, 2), (.header, 3), (.message, 4), (.emit, 5), (.stopped, 6)],
      s.fsm = p.1 → s.fsmState = p.2) ∧
    (s.fsm = .stopped → s.host.rst = false →
      s.host.sched.head? = some .block ∨ s.host.sched.head? = some .recv ∨ s.host.sched = [] → step s = .next s.popped)

/-- R105, R126, R140, R256: a block step that needs bytes not yet accepted is not enabled: the block waits, with no event. That
a wait is a step that changes nothing is the model's reading (log 5). -/
def Obligations.MissingBytesAreAWait : Prop :=
  ∀ s : State, s.host.Quiet → s.host.sched.head? = some .block →
    (s.fsm = .waitSync ∧ s.avail < s.pos + 3) ∨ (s.fsm = .header ∧ s.avail < s.frame.syncOff + s.frame.hl) ∨
      (s.fsm = .textSkip ∧ s.avail < s.pos + 1) ∨ (s.fsm = .message ∧ s.avail < s.frame.frameEnd) →
    step s = .next s.popped

/-- R227, R56, and R229 for EMIT: whatever `stop_req` is, a ready sink takes the next byte of the record; after the 26th the
block is IDLE. R220, R289: while the sink is not ready the block waits in EMIT, and a stop request does not stop it mid-record (a
wait is a step that changes nothing, log 5). The output port presents `obuf[ocnt]` in EMIT, and no byte in any other control
state, nor with a failure pending or under reset (log 28). -/
def Obligations.EmitDeliversOneByte : Prop :=
  (∀ (s : State) (b : Byte), s.host.rst = false → s.host.srcFail = false → s.host.sinkFail = false → s.BlockTurn →
    s.fsm = .emit → s.host.outReady = true → s.tx.ocnt < 26 → s.tx.obuf.toList[s.tx.ocnt]? = some b →
    s.outData = some b ∧
    step s = .next { s.popped with
      out := s.out ++ [b], tx := ⟨s.tx.obuf, s.tx.ocnt + 1⟩, fsm := if s.tx.ocnt = 25 then .idle else .emit }) ∧
  (∀ s : State, s.host.rst = false → s.host.srcFail = false → s.host.sinkFail = false → s.host.sched.head? = some .block →
    s.fsm = .emit → s.host.outReady = false → step s = .next s.popped) ∧
  (∀ s : State,
    (s.fsm = .emit → s.host.rst = false → s.host.srcFail = false → s.host.sinkFail = false →
      s.outData = s.tx.obuf.toList[s.tx.ocnt]?) ∧
    (s.fsm ≠ .emit ∨ s.host.rst = true ∨ s.host.srcFail = true ∨ s.host.sinkFail = true → s.outData = none))

/-- R227: a record is delivered whole and contiguous: with a ready sink, 26 steps append it to O. That each of them is a block
step is the model's choice for an empty schedule (log 4). -/
def Obligations.RecordIsDeliveredWhole : Prop :=
  ∀ s : State, s.host.Quiet → s.host.sched = [] → s.host.outReady = true → s.fsm = .emit → s.tx.ocnt = 0 →
    stepN 26 s = .next { s with out := s.out ++ s.tx.obuf.toList, tx := ⟨s.tx.obuf, 26⟩, fsm := .idle }

/-- R121, R54: the Long header decode, every field at its offset as the little-endian sum of R14, and MESSAGE next. -/
def Obligations.LongHeaderIsDecoded : Prop :=
  ∀ s : State, s.host.Quiet → s.BlockTurn → s.fsm = .header → s.frame.kind = .long → s.frame.hl = 28 →
    s.frame.syncOff + 28 ≤ s.avail →
    step s = .next { s.popped with
      frame := { s.frame with
        msgId := BitVec.ofNat 16 (s.sumAt (s.frame.syncOff + 4) 2)
        msgLen := BitVec.ofNat 16 (s.sumAt (s.frame.syncOff + 8) 2)
        frameEnd := s.frame.syncOff + 28 + s.sumAt (s.frame.syncOff + 8) 2 + 4 }
      hdr := { s.hdr with
        long := {
          headerLength := BitVec.ofNat 8 (s.sumAt (s.frame.syncOff + 3) 1)
          messageType := BitVec.ofNat 8 (s.sumAt (s.frame.syncOff + 6) 1)
          portAddress := BitVec.ofNat 8 (s.sumAt (s.frame.syncOff + 7) 1)
          sequence := BitVec.ofNat 16 (s.sumAt (s.frame.syncOff + 10) 2)
          idleTime := BitVec.ofNat 8 (s.sumAt (s.frame.syncOff + 12) 1)
          timeStatus := BitVec.ofNat 8 (s.sumAt (s.frame.syncOff + 13) 1)
          week := BitVec.ofNat 16 (s.sumAt (s.frame.syncOff + 14) 2)
          ms := BitVec.ofNat 32 (s.sumAt (s.frame.syncOff + 16) 4)
          receiverStatus := BitVec.ofNat 32 (s.sumAt (s.frame.syncOff + 20) 4)
          reserved := BitVec.ofNat 16 (s.sumAt (s.frame.syncOff + 24) 2)
          receiverSwVersion := BitVec.ofNat 16 (s.sumAt (s.frame.syncOff + 26) 2) } }
      fsm := .message }

/-- R122, R54: the Short header decode, every field the little-endian sum of R14; the length is one byte. -/
def Obligations.ShortHeaderIsDecoded : Prop :=
  ∀ s : State, s.host.Quiet → s.BlockTurn → s.fsm = .header → s.frame.kind = .short → s.frame.hl = 12 →
    s.frame.syncOff + 12 ≤ s.avail →
    step s = .next { s.popped with
      frame := { s.frame with
        msgId := BitVec.ofNat 16 (s.sumAt (s.frame.syncOff + 4) 2)
        msgLen := BitVec.ofNat 16 (s.sumAt (s.frame.syncOff + 3) 1)
        frameEnd := s.frame.syncOff + 12 + s.sumAt (s.frame.syncOff + 3) 1 + 4 }
      hdr := { s.hdr with
        short := {
          weekNumber := BitVec.ofNat 16 (s.sumAt (s.frame.syncOff + 6) 2)
          msecFromWeek := BitVec.ofNat 32 (s.sumAt (s.frame.syncOff + 8) 4) } }
      fsm := .message }

/-- R123: one byte of an InfoText run: a byte below 0x80 is passed, any other ends the run unconsumed. -/
def Obligations.TextByteIsPassedOrEndsTheRun : Prop :=
  ∀ (s : State) (b : Byte), s.host.Quiet → s.BlockTurn → s.fsm = .textSkip → s.frame.kind = .infoText →
    s.byteAt s.pos = some b →
    (b.toNat < 0x80 → step s = .next { s.popped with pos := s.pos + 1 }) ∧
    (0x80 ≤ b.toNat → step s = .next { s.popped with
      frame := { s.frame with hl := s.pos - s.frame.syncOff }, fsm := .idle })

/-- R74, R123, R125: a whole InfoText run: text bytes are passed, the first other byte ends it and is not consumed, the header
length counts from the sync, and nothing else changes. That each step is a block step is the model's choice for an empty
schedule (log 4). -/
def Obligations.InfoTextRunIsMeasured : Prop :=
  ∀ (s : State) (ts : List Byte) (b : Byte), s.host.Quiet → s.host.sched = [] → s.fsm = .textSkip →
    s.frame.kind = .infoText → s.bytes s.pos (ts.length + 1) = ts ++ [b] → (∀ x ∈ ts, x.toNat < 0x80) →
    0x80 ≤ b.toNat →
    stepN (ts.length + 1) s = .next { s with
      pos := s.pos + ts.length, frame := { s.frame with hl := s.pos + ts.length - s.frame.syncOff }, fsm := .idle }

/-- R253: a header decode with the kind Unknown is fatal: the event, then STOPPED. -/
def Obligations.UnknownKindIsFatal : Prop :=
  ∀ s : State, s.host.Quiet → s.BlockTurn → s.fsm = .header → s.frame.kind = .unknown →
    s.frame.syncOff + s.frame.hl ≤ s.avail →
    step s = .next { s.popped with
      fsm := .stopped, events := s.events ++ [⟨2, 0, 0, BitVec.ofNat 32 s.frame.syncOff, 0⟩] }

/-! ## The instructions: the scanner -/

/-- The block runs the instruction it decodes: in WAIT_SYNC the window at the cursor, in MESSAGE the latched id of a whole
frame (R90, R100, R141). Around `exec` the step only takes the turn off the schedule. -/
def Obligations.StepRunsTheDecodedInstruction : Prop :=
  (∀ (s : State) (i : Instr) (rest : List Byte), s.host.Quiet → s.BlockTurn → s.fsm = .waitSync → s.pos + 3 ≤ s.avail →
    decode .sync (s.bytes s.pos 3) = .ok (i, rest) → i.wf = true ∧ step s = exec i s.popped) ∧
  (∀ (s : State) (i : Instr) (rest : List Byte), s.host.Quiet → s.BlockTurn → s.fsm = .message →
    s.frame.frameEnd ≤ s.avail → decode .msgId (leBytes 2 s.frame.msgId.toNat) = .ok (i, rest) →
    i.wf = true ∧ step s = exec i s.popped)

/-- R101: SYNC_LONG. -/
def Obligations.SyncLongOpensALongFrame : Prop :=
  ∀ s : State, s.fsm = .waitSync → s.pos + 3 ≤ s.avail → s.bytes s.pos 3 = [0xAA, 0x44, 0x12] →
    exec .syncLong s = .next { s with
      events := s.events ++ (if 0 < s.disc.cnt then
        [⟨1, 0, 0, BitVec.ofNat 32 s.disc.start, BitVec.ofNat 32 s.disc.cnt⟩] else [])
      disc := ⟨0, 0⟩, frame := { s.frame with kind := .long, syncOff := s.pos, hl := 28 }, fsm := .header }

/-- R102: SYNC_SHORT. -/
def Obligations.SyncShortOpensAShortFrame : Prop :=
  ∀ s : State, s.fsm = .waitSync → s.pos + 3 ≤ s.avail → s.bytes s.pos 3 = [0xAA, 0x44, 0x13] →
    exec .syncShort s = .next { s with
      events := s.events ++ (if 0 < s.disc.cnt then
        [⟨1, 0, 0, BitVec.ofNat 32 s.disc.start, BitVec.ofNat 32 s.disc.cnt⟩] else [])
      disc := ⟨0, 0⟩, frame := { s.frame with kind := .short, syncOff := s.pos, hl := 12 }, fsm := .header }

/-- R104: SYNC_INFOTEXT. -/
def Obligations.SyncInfoTextStartsARun : Prop :=
  ∀ s : State, s.fsm = .waitSync → s.pos + 3 ≤ s.avail → s.bytes s.pos 3 = [0x3C, 0x49, 0x4E] →
    exec .syncInfoText s = .next { s with
      events := s.events ++ (if 0 < s.disc.cnt then
        [⟨1, 0, 0, BitVec.ofNat 32 s.disc.start, BitVec.ofNat 32 s.disc.cnt⟩] else [])
      disc := ⟨0, 0⟩, frame := { s.frame with kind := .infoText, syncOff := s.pos }
      pos := s.pos + 3, fsm := .textSkip }

/-- R103: SYNC_NONE, the byte-serial resync. -/
def Obligations.SyncNoneDiscardsOneByte : Prop :=
  ∀ (s : State) (b0 b1 b2 : Byte), s.fsm = .waitSync → s.pos + 3 ≤ s.avail → s.bytes s.pos 3 = [b0, b1, b2] →
    [b0, b1, b2] ∉ [[(0xAA : Byte), 0x44, 0x12], [0xAA, 0x44, 0x13], [0x3C, 0x49, 0x4E]] →
    exec (.syncNone b0 b1 b2) s = .next { s with
      disc := ⟨s.disc.cnt + 1, if s.disc.cnt = 0 then s.pos else s.disc.start⟩, pos := s.pos + 1 }

/-- R108: the resync offset property, with its premise. That each step is a block step is the model's choice for an empty
schedule (log 4). -/
def Obligations.ResyncFindsTheFirstLongSync : Prop :=
  ∀ (s : State) (g r : List Byte), s.host.Quiet → s.host.sched = [] → s.fsm = .waitSync → s.pos = 0 → s.disc = ⟨0, 0⟩ →
    s.input = g ++ [0xAA, 0x44, 0x12] ++ r → (∀ k < g.length, s.bytes k 3 ∉ syncWords) →
    stepN (g.length + 1) s = .next { s with
      pos := g.length, fsm := .header, frame := { s.frame with kind := .long, syncOff := g.length, hl := 28 }
      events := s.events ++ (if g = [] then [] else [⟨1, 0, 0, 0, BitVec.ofNat 32 g.length⟩]) }

/-! ## The instructions: the message arms -/

/-- R145, R146, R147, R149, R151, R174, R226: a whole frame of an id that carries nothing, long enough for its layout, commits
the unchanged state and loads its record. -/
def Obligations.PlainMessagesEmitTheCurrentRecord : Prop :=
  ∀ (s : State), ∀ p ∈ plainRows, s.fsm = .message → s.frame.frameEnd ≤ s.avail → s.frame.msgId = p.2.1 →
    (s.layout p.2.2).size ≤ s.frame.msgLen.toNat → s.arf.firstViolation = none →
    exec p.1 s = .next { s with
      tx := ⟨recordOf s.arf s.status, 0⟩, pos := s.frame.frameEnd, fsm := .emit }

/-- R148, R171: MSG_1465 with an in-range candidate commits it and loads its record. -/
def Obligations.Msg1465CommitsItsUpdate : Prop :=
  ∀ (s : State) (up north east roll pitch : F64) (a : Attitude), s.fsm = .message → s.frame.frameEnd ≤ s.avail →
    s.frame.msgId = 1465 → (s.layout .m1465).size ≤ s.frame.msgLen.toNat →
    up = (s.fieldsOf .m1465).num "up_vel" → north = (s.fieldsOf .m1465).num "north_vel" →
    east = (s.fieldsOf .m1465).num "east_vel" → roll = (s.fieldsOf .m1465).num "roll" →
    pitch = (s.fieldsOf .m1465).num "pitch" →
    a = { horiz := F64.div up (.literal false 200 1)
          vert := F64.div (F64.sqrt (F64.add (F64.mul north north) (F64.mul east east))) (.literal false 200 1)
          heave := s.arf.heave, roll := roll, pitch := pitch } →
    a.firstViolation = none →
    exec .msg1465 s = .next { s with
      arf := a, tx := ⟨recordOf a s.status, 0⟩, pos := s.frame.frameEnd, fsm := .emit }

/-- R150, R172: MSG_1708 with an in-range candidate commits it and loads its record. -/
def Obligations.Msg1708CommitsItsUpdate : Prop :=
  ∀ (s : State) (vertical lateral longitudinal rollRate pitchRate : F64) (a : Attitude), s.fsm = .message →
    s.frame.frameEnd ≤ s.avail → s.frame.msgId = 1708 → (s.layout .m1708).size ≤ s.frame.msgLen.toNat →
    vertical = (s.fieldsOf .m1708).num "vertical_acc" → lateral = (s.fieldsOf .m1708).num "lateral_acc" →
    longitudinal = (s.fieldsOf .m1708).num "longitudinal_acc" → rollRate = (s.fieldsOf .m1708).num "roll_rate" →
    pitchRate = (s.fieldsOf .m1708).num "pitch_rate" →
    a = { horiz := F64.mul vertical (.literal false 200 1)
          vert := F64.mul (F64.sqrt (F64.add (F64.mul lateral lateral) (F64.mul longitudinal longitudinal)))
            (.literal false 200 1)
          heave := s.arf.heave, roll := F64.mul rollRate (.literal false 200 1)
          pitch := F64.mul pitchRate (.literal false 200 1) } →
    a.firstViolation = none →
    exec .msg1708 s = .next { s with
      arf := a, tx := ⟨recordOf a s.status, 0⟩, pos := s.frame.frameEnd, fsm := .emit }

/-- R152, R173: MSG_813 with an in-range candidate commits heave alone and loads the record. -/
def Obligations.Msg813CommitsHeave : Prop :=
  ∀ (s : State) (a : Attitude), s.fsm = .message → s.frame.frameEnd ≤ s.avail → s.frame.msgId = 813 →
    (s.layout .m813).size ≤ s.frame.msgLen.toNat → a = { s.arf with heave := (s.fieldsOf .m813).num "heave" } →
    a.firstViolation = none →
    exec .msg813 s = .next { s with
      arf := a, tx := ⟨recordOf a s.status, 0⟩, pos := s.frame.frameEnd, fsm := .emit }

/-- R153, R254, R258: MSG_UNSUPPORTED skips the frame by its declared length, with its event and no other effect. -/
def Obligations.UnsupportedIdSkipsTheFrame : Prop :=
  ∀ (s : State) (id : BitVec 16), s.fsm = .message → s.frame.frameEnd ≤ s.avail → s.frame.msgId = id →
    id ∉ [(1462 : BitVec 16), 1457, 319, 1465, 508, 1708, 1382, 813] →
    exec (.msgUnsupported id) s = .next { s with
      events := s.events ++ [⟨3, 0, id, BitVec.ofNat 32 s.frame.syncOff, BitVec.ofNat 32 s.frame.msgLen.toNat⟩]
      pos := s.frame.frameEnd, fsm := .idle }

/-- R144, R257, R258, and R260's order: every supported arm whose declared length is below its layout's size aborts the frame,
whatever the payload would give. -/
def Obligations.ShortPayloadIsALengthMismatch : Prop :=
  ∀ (s : State), ∀ p ∈ plainRows ++ updatingRows.map (fun q => (q.1, q.2.1, q.2.2.1)), s.fsm = .message →
    s.frame.frameEnd ≤ s.avail → s.frame.msgId = p.2.1 → s.frame.msgLen.toNat < (s.layout p.2.2).size →
    exec p.1 s = .next { s with
      events := s.events ++
        [⟨6, 0, s.frame.msgId, BitVec.ofNat 32 s.frame.syncOff, BitVec.ofNat 32 s.frame.msgLen.toNat⟩]
      pos := s.frame.frameEnd, fsm := .idle }

/-- R226, R255, R258: a candidate outside its domain aborts the frame with the index of the first register that fails; the
attitude state, STATUS and the record register are left as they were. -/
def Obligations.OutOfRangeCandidateAbortsTheFrame : Prop :=
  ∀ (s : State) (r : AttReg), ∀ p ∈ updatingRows, s.fsm = .message → s.frame.frameEnd ≤ s.avail → s.frame.msgId = p.2.1 →
    (s.layout p.2.2.1).size ≤ s.frame.msgLen.toNat →
    (p.2.2.2 (s.fieldsOf p.2.2.1) s.arf).firstViolation = some r →
    exec p.1 s = .next { s with
      events := s.events ++ [⟨4, r.index, s.frame.msgId, BitVec.ofNat 32 s.frame.syncOff, 0⟩]
      pos := s.frame.frameEnd, fsm := .idle }

/-- R171 to R173, R190: a NaN in any field an update reads makes the candidate out of range. -/
def Obligations.NanFieldNeverCommits : Prop :=
  ∀ (f : FieldRecord) (a : Attitude),
    ((∃ n ∈ names1465, (f.num n).isNan = true) → (upd1465 f a).firstViolation ≠ none) ∧
    ((∃ n ∈ names1708, (f.num n).isNan = true) → (upd1708 f a).firstViolation ≠ none) ∧
    ((f.num "heave").isNan = true → (upd813 f a).firstViolation ≠ none)

/-- R175, R226, R258: the commit is all or nothing. A message arm either leaves ARF as it was or writes the whole candidate of
its update, which is in range, with its record; and where it raises an event, ARF, STATUS, the record register and O are as
before and the cursor is at the frame's end. -/
def Obligations.CommitIsAllOrNothing : Prop :=
  ∀ (i : Instr) (s t : State), i.level = .msgId → exec i s = .next t →
    (t.arf = s.arf ∨ ∃ p ∈ updatingRows, i = p.1 ∧ t.arf = p.2.2.2 (s.fieldsOf p.2.2.1) s.arf ∧
      t.arf.firstViolation = none ∧ t.fsm = .emit ∧ t.tx = ⟨recordOf t.arf s.status, 0⟩ ∧ t.events = s.events ∧
      t.pos = s.frame.frameEnd) ∧
    (t.events ≠ s.events → t.arf = s.arf ∧ t.status = s.status ∧ t.tx = s.tx ∧ t.out = s.out ∧
      t.pos = s.frame.frameEnd ∧ t.fsm = .idle)

/-- R170, R171 to R174, R176: each register is written only by the messages that carry it, and STATUS by no instruction. -/
def Obligations.UpdatesAreSparse : Prop :=
  ∀ (i : Instr) (s t : State), exec i s = .next t →
    (i = .msg1465 ∨ i = .msg1708 → t.arf.heave = s.arf.heave) ∧
    (i = .msg813 → t.arf.horiz = s.arf.horiz ∧ t.arf.vert = s.arf.vert ∧ t.arf.roll = s.arf.roll ∧
      t.arf.pitch = s.arf.pitch) ∧
    (i ∉ [Instr.msg1465, .msg1708, .msg813] → t.arf = s.arf) ∧ t.status = s.status

/-- R76, R142, R77, R143: field j of a decoded record is read at the payload's start plus the widths before it, by its type,
and is found by its name. An integer is the unsigned sum of R14 or its two's complement, an f32 or f64 the value of that bit
pattern, a byte array the bytes themselves; a number has its R143 value and a byte array none. R11 (b), (c), (d): under every
configuration the unpacker finds a number for every name an update reads. -/
def Obligations.ConfiguredNamesAreNumbers : Prop :=
  (∀ (s : State) (k : MsgKind),
    (s.fieldsOf k).length = (s.layout k).length ∧
    ∀ (j : Nat) (f : Field), (s.layout k)[j]? = some f →
      ∃ v, v = decodeField f.type (s.bytes
          (s.frame.syncOff + s.frame.hl + (((s.layout k).take j).map fun g => g.type.width).sum) f.type.width) ∧
        (s.fieldsOf k)[j]? = some (f.name, v) ∧ (s.fieldsOf k).num? f.name = v.num) ∧
  (∀ (s : State) (a : Nat) (ty : FieldType), a + ty.width ≤ s.avail →
    (ty = .u8 → decodeField ty (s.bytes a ty.width) = .int (s.sumAt a 1)) ∧
    (ty = .i8 → decodeField ty (s.bytes a ty.width) = .int (signedOf 8 (s.sumAt a 1))) ∧
    (ty = .u16 → decodeField ty (s.bytes a ty.width) = .int (s.sumAt a 2)) ∧
    (ty = .i16 → decodeField ty (s.bytes a ty.width) = .int (signedOf 16 (s.sumAt a 2))) ∧
    (ty = .u32 → decodeField ty (s.bytes a ty.width) = .int (s.sumAt a 4)) ∧
    (ty = .i32 → decodeField ty (s.bytes a ty.width) = .int (signedOf 32 (s.sumAt a 4))) ∧
    (ty = .u64 → decodeField ty (s.bytes a ty.width) = .int (s.sumAt a 8)) ∧
    (ty = .i64 → decodeField ty (s.bytes a ty.width) = .int (signedOf 64 (s.sumAt a 8))) ∧
    (ty = .f32 → decodeField ty (s.bytes a ty.width) = .f32 (BitVec.ofNat 32 (s.sumAt a 4))) ∧
    (ty = .f64 → decodeField ty (s.bytes a ty.width) = .f64 (.ofBits (BitVec.ofNat 64 (s.sumAt a 8)))) ∧
    (∀ n, ty = .bytes n → ∃ bs, decodeField ty (s.bytes a ty.width) = .raw bs ∧ bs.length = n ∧
      ∀ i < n, bs[i]? = s.byteAt (a + i))) ∧
  (∀ (v : Int) (u : BitVec 32) (x : F64) (bs : List Byte), (Value.int v).num = some (.ofInt v) ∧
    (Value.f32 u).num = some (.ofF32 u) ∧ (Value.f64 x).num = some x ∧ (Value.raw bs).num = none) ∧
  ∀ (s : State) (base : Nat),
    (∀ n ∈ names1465, ((s.unpack (s.layout .m1465) base).num? n).isSome = true) ∧
    (∀ n ∈ names1708, ((s.unpack (s.layout .m1708) base).num? n).isSome = true) ∧
    ((s.unpack (s.layout .m813) base).num? "heave").isSome = true

/-- An instruction outside its rule's `require` (another control state, bytes missing, another window or id, or operands of a
default row that another row holds) is not enabled and changes nothing. The model's reading of a step that is not enabled
(log 16). -/
def Obligations.ExecOutsideItsRequireChangesNothing : Prop :=
  ∀ (i : Instr) (s : State),
    (i.level = .sync ∧ (s.fsm ≠ .waitSync ∨ s.avail < s.pos + 3 ∨ s.bytes s.pos 3 ≠ encode i)) ∨
      (i.level = .msgId ∧
        (s.fsm ≠ .message ∨ s.avail < s.frame.frameEnd ∨ leBytes 2 s.frame.msgId.toNat ≠ encode i)) ∨
      i.wf = false →
    exec i s = .next s

/-! ## The encoder -/

/-- R190, R22: the domain check reports the first register, in index order, that is outside its closed domain; only finite
values between the ends are inside, and the ends are those of R22's table. -/
def Obligations.FirstViolationIsTheFirst : Prop :=
  (∀ (a : Attitude) (r : AttReg), a.firstViolation = some r ↔
    r.inDomain (a.get r) = false ∧ ∀ q : AttReg, q.index.toNat < r.index.toNat → q.inDomain (a.get q) = true) ∧
  (∀ a : Attitude, a.firstViolation = none ↔ ∀ r : AttReg, r.inDomain (a.get r) = true) ∧
  (∀ p ∈ [(AttReg.horiz, F64.literal false 0 1, F64.literal false 981 100),
      (.vert, .literal true 2048 100, .literal false 2047 100), (.heave, .literal true 9999 100, .literal false 9999 100),
      (.roll, .literal true 9999 100, .literal false 9999 100), (.pitch, .literal true 9999 100, .literal false 9999 100)],
    ∀ x : F64, p.1.inDomain x = true ↔
      x.isFinite = true ∧ p.2.1.toInt1074 ≤ x.toInt1074 ∧ x.toInt1074 ≤ p.2.2.toInt1074) ∧
  (∀ a : Attitude, [AttReg.horiz, .vert, .heave, .roll, .pitch].map (fun r => (r.index, a.get r)) =
    [(0, a.horiz), (1, a.vert), (2, a.heave), (3, a.roll), (4, a.pitch)])

/-- R191, R192, R193: an in-range horizontal value has a code of one byte: rounded below 9.771, truncated and clamped from
there. -/
def Obligations.HorizontalCodeIsAByte : Prop :=
  ∀ h : F64, AttReg.horiz.inDomain h = true →
    horizCode h ≤ 255 ∧
    (h.lt (.literal false 9771 1000) = true → (horizCode h : Int) = (F64.div h (.literal false 383 10000)).rte) ∧
    (h.lt (.literal false 9771 1000) = false →
      (horizCode h : Int) = min (F64.div h (.literal false 383 10000)).rtz 255)

/-- R195: an in-range vertical value has a code between -32768 and 32752, so its 16-bit pattern loses nothing. -/
def Obligations.VerticalCodeFitsSixteenBits : Prop :=
  ∀ v : F64, AttReg.vert.inDomain v = true →
    -32768 ≤ (F64.div v (.literal false 625 1000000)).rte ∧ (F64.div v (.literal false 625 1000000)).rte ≤ 32752 ∧
    (vertCode v).toInt = (F64.div v (.literal false 625 1000000)).rte

/-- R197: an in-range heave, roll or pitch has a magnitude of at most 9999, four digits. -/
def Obligations.MagnitudeHasFourDigits : Prop :=
  ∀ x : F64, AttReg.heave.inDomain x = true →
    magnitude x ≤ 9999 ∧ (magnitude x : Int) = (F64.mul x.abs (.literal false 100 1)).rte

/-- R96, R200: the characters of a record, position by position. The spec builds records of in-range states only; that they
hold of a record of any state is the model's choice (log 13). -/
def Obligations.RecordCharacterSet : Prop :=
  ∀ (a : Attitude) (st : Status) (r : List Byte), r = (recordOf a st).toList →
    r.length = 26 ∧ r[0]? = some 0x3A ∧ r[7]? = some 0x20 ∧ r[19]? = some 0x20 ∧ r[25]? = some 0x0A ∧
    (∀ k ∈ [1, 2, 3, 4, 5, 6], ∃ c, r[k]? = some c ∧ isHexChar c = true) ∧
    (∀ k ∈ [8, 14, 20], ∃ c, r[k]? = some c ∧ isSignChar c = true) ∧
    (∀ k ∈ [9, 10, 11, 12, 15, 16, 17, 18, 21, 22, 23, 24], ∃ c, r[k]? = some c ∧ isDecChar c = true) ∧
    r[13]? = some (if st = .active then 0x46 else 0x48)

/-- R95, R194, R196, R197, R198: the characters of an in-range record spell its codes: the horizontal code in positions 1-2,
the vertical pattern low byte first in positions 3-6, and sign and magnitude of heave, roll and pitch. -/
def Obligations.RecordSpellsItsCodes : Prop :=
  ∀ (a : Attitude) (st : Status) (r : Vector Byte 26), a.firstViolation = none → r = recordOf a st →
    recordHex r 1 = horizCode a.horiz ∧ recordHex r 3 + 256 * recordHex r 5 = (vertCode a.vert).toNat ∧
    recordDec r 9 = magnitude a.heave ∧ recordDec r 15 = magnitude a.roll ∧ recordDec r 21 = magnitude a.pitch ∧
    (r.toList[8]? = some 0x2D ↔ a.heave.lt .zero = true) ∧ (r.toList[14]? = some 0x2D ↔ a.roll.lt .zero = true) ∧
    (r.toList[20]? = some 0x2D ↔ a.pitch.lt .zero = true)

/-- R202: the codes recover the values. Up to binary64 rounding error (stated as a bound) a horizontal value below 9.771 and
every vertical value lies within half a quantum of its decoded code; from 9.771 on the horizontal code is 255. Values are in
units of 2^-1074. -/
def Obligations.CodesRoundTrip : Prop :=
  ∀ a : Attitude, a.firstViolation = none →
    (a.horiz.lt (.literal false 9771 1000) = true →
      2 * (383 * (horizCode a.horiz : Int) * 2 ^ 1074 - 10000 * a.horiz.toInt1074).natAbs ≤ 383 * 2 ^ 1074 + 383 * 2 ^ 1032) ∧
    (a.horiz.lt (.literal false 9771 1000) = false → horizCode a.horiz = 255) ∧
    2 * (625 * (vertCode a.vert).toInt * 2 ^ 1074 - 1000000 * a.vert.toInt1074).natAbs ≤ 625 * 2 ^ 1074 + 625 * 2 ^ 1040

/-! ## Numbers -/

/-- R77: every 64-bit pattern is one binary64 value, and every value one pattern. Bit 63 is the sign, bits 62 to 52 the exponent
field `e`, bits 51 to 0 the fraction `f`; in units of 2^-1074 a finite magnitude is `f`, or `(2^52 + f) * 2^(e-1)`. -/
def Obligations.BitPatternsAreValues : Prop :=
  (∀ u : BitVec 64, (F64.ofBits u).toBits = u) ∧ (∀ x : F64, F64.ofBits x.toBits = x) ∧
  ∀ (u : BitVec 64) (e f : Nat), e = u.toNat / 2 ^ 52 % 2048 → f = u.toNat % 2 ^ 52 →
    (F64.ofBits u).sign = u.getLsbD 63 ∧
    (e < 2047 → (F64.ofBits u).isFinite = true ∧
      (F64.ofBits u).units = (if e = 0 then f else (2 ^ 52 + f) * 2 ^ (e - 1)) ∧
      (F64.ofBits u).toInt1074 = (if u.getLsbD 63 = true then -1 else 1) * ((F64.ofBits u).units : Int)) ∧
    (e = 2047 → f = 0 → F64.ofBits u = .inf (u.getLsbD 63)) ∧ (e = 2047 → f ≠ 0 → (F64.ofBits u).isNan = true)

/-- R143: a binary32 value widens exactly; an infinity stays one and a NaN stays a NaN. In units of 2^-1074 a binary32 quantum
2^-149 is 2^925. -/
def Obligations.WideningIsExact : Prop :=
  ∀ (u : BitVec 32) (e f : Nat), e = u.toNat / 2 ^ 23 % 256 → f = u.toNat % 2 ^ 23 →
    (e < 255 → (F64.ofF32 u).isFinite = true ∧ (F64.ofF32 u).sign = u.getLsbD 31 ∧
      (F64.ofF32 u).units = (if e = 0 then f else (2 ^ 23 + f) * 2 ^ (e - 1)) * 2 ^ 925) ∧
    (e = 255 → f = 0 → F64.ofF32 u = .inf (u.getLsbD 31)) ∧ (e = 255 → f ≠ 0 → (F64.ofF32 u).isNan = true)

/-- R143: an integer of magnitude at most 2^53 converts exactly. -/
def Obligations.SmallIntegersConvertExactly : Prop :=
  ∀ v : Int, v.natAbs ≤ 2 ^ 53 → (F64.ofInt v).isFinite = true ∧ (F64.ofInt v).toInt1074 = v * 2 ^ 1074

/-- R16: the operations on finite values are the exact result rounded once, roundTiesToEven: rounding an exact quotient, sum,
difference, product, quotient by a value other than zero, decimal literal, and integer. A sum or difference that is exactly
zero is a zero, of the sign IEEE 754 gives it (log 12). `rte` is the nearest integer, even at a tie, `rtz` the integer part
toward zero, `abs` clears the sign, and the comparisons are those of the exact values, false for a NaN. Values are in units of
2^-1074. The last clauses, on division by a zero, infinite operands and NaNs, are those of IEEE 754 (log 12). -/
def Obligations.RoundingIsNearestEven : Prop :=
  (∀ (sgn : Bool) (n d : Nat), 0 < d → (F64.roundUnits sgn n d).IsRounding sgn n d ∧
    (F64.literal sgn n d).IsRounding sgn (n * 2 ^ 1074) d) ∧
  (∀ v : Int, (F64.ofInt v).IsRounding (decide (v < 0)) (v.natAbs * 2 ^ 1074) 1) ∧
  (∀ (x y : F64) (sum diff : Int), x.isFinite = true → y.isFinite = true → sum = x.toInt1074 + y.toInt1074 →
    diff = x.toInt1074 - y.toInt1074 →
    (sum ≠ 0 → (F64.add x y).IsRounding (decide (sum < 0)) sum.natAbs 1) ∧
    (sum = 0 → F64.add x y = .fin (x.sign && y.sign) 0 0) ∧
    (diff ≠ 0 → (F64.sub x y).IsRounding (decide (diff < 0)) diff.natAbs 1) ∧
    (diff = 0 → F64.sub x y = .fin (x.sign && !y.sign) 0 0) ∧
    (F64.mul x y).IsRounding (x.sign ^^ y.sign) (x.units * y.units) (2 ^ 1074) ∧
    (y.units ≠ 0 → (F64.div x y).IsRounding (x.sign ^^ y.sign) (x.units * 2 ^ 1074) y.units) ∧
    (x.lt y = true ↔ x.toInt1074 < y.toInt1074) ∧ (x.le y = true ↔ x.toInt1074 ≤ y.toInt1074)) ∧
  (∀ x : F64, x.isFinite = true →
    2 * (x.rte * 2 ^ 1074 - x.toInt1074).natAbs ≤ 2 ^ 1074 ∧
    (2 * (x.rte * 2 ^ 1074 - x.toInt1074).natAbs = 2 ^ 1074 → x.rte % 2 = 0) ∧
    x.rtz.natAbs * 2 ^ 1074 ≤ x.units ∧ x.units < (x.rtz.natAbs + 1) * 2 ^ 1074 ∧
    (if x.sign = true then x.rtz ≤ 0 else 0 ≤ x.rtz) ∧
    x.abs.isFinite = true ∧ x.abs.sign = false ∧ x.abs.units = x.units) ∧
  (∀ x y : F64, x.isFinite = true → y.isFinite = true → y.units = 0 →
    (x.units ≠ 0 → F64.div x y = .inf (x.sign ^^ y.sign)) ∧ (x.units = 0 → (F64.div x y).isNan = true)) ∧
  (∀ (a : Bool) (x : F64), x.isFinite = true →
    F64.add (.inf a) x = .inf a ∧ F64.add x (.inf a) = .inf a ∧
    F64.sub (.inf a) x = .inf a ∧ F64.sub x (.inf a) = .inf (!a) ∧
    (x.units ≠ 0 → F64.mul (.inf a) x = .inf (a ^^ x.sign) ∧ F64.mul x (.inf a) = .inf (a ^^ x.sign)) ∧
    (x.units = 0 → (F64.mul (.inf a) x).isNan = true ∧ (F64.mul x (.inf a)).isNan = true) ∧
    F64.div (.inf a) x = .inf (a ^^ x.sign) ∧ F64.div x (.inf a) = .fin (a ^^ x.sign) 0 0 ∧
    F64.lt (.inf a) x = a ∧ F64.le (.inf a) x = a ∧ F64.lt x (.inf a) = !a ∧ F64.le x (.inf a) = !a) ∧
  (∀ a b : Bool,
    F64.add (.inf a) (.inf a) = .inf a ∧ (F64.add (.inf a) (.inf (!a))).isNan = true ∧
    F64.sub (.inf a) (.inf (!a)) = .inf a ∧ (F64.sub (.inf a) (.inf a)).isNan = true ∧
    F64.mul (.inf a) (.inf b) = .inf (a ^^ b) ∧ (F64.div (.inf a) (.inf b)).isNan = true ∧
    F64.lt (.inf a) (.inf b) = (a && !b) ∧ F64.le (.inf a) (.inf b) = (a || !b) ∧ F64.abs (.inf a) = .inf false) ∧
  ∀ x y : F64, x.isNan = true ∨ y.isNan = true →
    (F64.add x y).isNan = true ∧ (F64.sub x y).isNan = true ∧ (F64.mul x y).isNan = true ∧ (F64.div x y).isNan = true ∧
    x.lt y = false ∧ x.le y = false

/-- R16: the square root of a positive finite value is finite, has 53 significant bits, lies within half a quantum of the exact
root, and is the finite value nearest it: the exact root lies on the result's side of the half-way point to every other
finite value (never on it), said of squares. The root of a zero is that zero, and of +inf it is +inf (R148, R171); of a value
below zero and of a NaN it is a NaN (log 12). -/
def Obligations.SquareRootIsNearest : Prop :=
  (∀ x r : F64, x.isFinite = true → x.sign = false → 0 < x.units → r = F64.sqrt x →
    r.isFinite = true ∧ r.sign = false ∧
    (∃ j k : Nat, 2 ^ 52 ≤ k ∧ k ≤ 2 ^ 53 ∧ r.units = k * 2 ^ j ∧
      (2 * k - 1) ^ 2 * 4 ^ j ≤ 4 * (x.units * 2 ^ 1074) ∧ 4 * (x.units * 2 ^ 1074) ≤ (2 * k + 1) ^ 2 * 4 ^ j) ∧
    ∀ y : F64, y.isFinite = true →
      (y.units < r.units → (r.units + y.units) ^ 2 < 4 * (x.units * 2 ^ 1074)) ∧
      (r.units < y.units → 4 * (x.units * 2 ^ 1074) < (r.units + y.units) ^ 2)) ∧
  (∀ sgn : Bool, F64.sqrt (.fin sgn 0 0) = .fin sgn 0 0) ∧ F64.sqrt (.inf false) = .inf false ∧
  ∀ x : F64, x.isNan = true ∨ x = .inf true ∨ (x.sign = true ∧ x.units ≠ 0) → (F64.sqrt x).isNan = true

/-! ## Decode and encode -/

/-- R70, R71, R80, R90: the decoder answers an instruction exactly where the bytes are the encoding of a well-formed
instruction of that level, and then those that follow it. -/
def Obligations.DecodeAndEncodeAgree : Prop :=
  ∀ (l : Level) (bs rest : List Byte) (i : Instr),
    decode l bs = .ok (i, rest) ↔ i.wf = true ∧ i.level = l ∧ bs = encode i ++ rest

/-- Words of the opcode table decode to their rows (R70, R80). -/
def Obligations.TableWordsDecodeToTheirRows : Prop :=
  decodeTableWord 24 0xAA4412 = some .syncLong ∧ decodeTableWord 24 0xAA4413 = some .syncShort ∧
  decodeTableWord 24 0x3C494E = some .syncInfoText ∧ decodeTableWord 24 0xAA4414 = some (.syncNone 0xAA 0x44 0x14) ∧
  decodeTableWord 16 0x05B6 = some .msg1462 ∧ decodeTableWord 16 0x05B9 = some .msg1465 ∧
  decodeTableWord 16 0x06AC = some .msg1708 ∧ decodeTableWord 16 0x032D = some .msg813 ∧
  decodeTableWord 16 0x05B7 = some (.msgUnsupported 1463)

/-! ## The whole machine -/

/-- The invariant holds after power-on. -/
def Obligations.InvariantHoldsAtReset : Prop := State.reset.Inv

/-- R24, R32, R37, R106, R130 and the others that `State.Inv` cites: every step keeps the invariant. -/
def Obligations.EveryStepKeepsTheInvariant : Prop := ∀ s t : State, s.Inv → step s = .next t → t.Inv

/-- R250, R256, R262: no step stops: every fault of the spec is an event and a next state, and missing bytes are a wait. -/
def Obligations.EveryStepAnswersANextState : Prop := ∀ s : State, ∃ t, step s = .next t

/-- R21, R25, R64, R265: no block step, so no byte of the input stream, changes the configuration, STATUS, the accepted bytes
or the host's lines. -/
def Obligations.BlockStepsKeepTheHostsState : Prop :=
  ∀ s t : State, blockStep s = .next t →
    t.cfg = s.cfg ∧ t.status = s.status ∧ t.input = s.input ∧ t.host = s.host

/-- R25, R51: S only grows, by the byte the host presents first, which leaves its queue in that step; else S and the queue stay,
but for reset, which empties S, and the host's own turn, which presents one more byte. A byte once accepted never changes. -/
def Obligations.AcceptedBytesNeverChange : Prop :=
  ∀ s t : State, step s = .next t →
    ((∃ b bs, s.host.inq = b :: bs ∧ t.input = s.input ++ [b] ∧ t.host.inq = bs) ∨
      ((t.input = s.input ∨ ((s.host.rst = true ∨ t.host.rst = true) ∧ t.input = [])) ∧
        (t.host.inq = s.host.inq ∨
          ∃ b, s.host.sched.head? = some (.present b) ∧ t.host.inq = s.host.inq ++ [b]))) ∧
    (s.host.rst = false → t.host.rst = false → ∀ a < s.avail, t.byteAt a = s.byteAt a) ∧ t.cfg = s.cfg

/-- R56, R227, R250, R251: O grows by at most one byte a step, in EMIT only, with the sink ready, and by `obuf[ocnt]`, the byte
the port presents; at most one event is raised a step, with a code of the taxonomy, never 5 and never above 7, and the event port
presents that event in that step and none in any other. R281: under reset none is raised. That the sequence survives reset is the
model's reading (log 8). -/
def Obligations.OutputAndEventsOnlyGrow : Prop :=
  ∀ s t : State, step s = .next t →
    (t.out = s.out ∨ (s.fsm = .emit ∧ s.host.outReady = true ∧
      ∃ b, s.tx.obuf.toList[s.tx.ocnt]? = some b ∧ s.outData = some b ∧ t.out = s.out ++ [b])) ∧
    (s.host.rst = true ∨ t.host.rst = true → t.events = s.events) ∧
    ((t.events = s.events ∧ s.evtOut t = none) ∨
      ∃ e : Event, t.events = s.events ++ [e] ∧ s.evtOut t = some e ∧ e.code ∈ [(1 : BitVec 4), 2, 3, 4, 6, 7] ∧
        e.field.toNat ≤ 4)

/-- R23, R176, R232: STATUS changes only by the host's status write, and to the value written, or by reset. -/
def Obligations.OnlyTheHostWritesStatus : Prop :=
  ∀ s t : State, step s = .next t →
    t.status = s.status ∨ s.host.sched.head? = some (.status t.status) ∨
      ((s.host.rst = true ∨ t.host.rst = true) ∧ t.status = .active)

/-- R22, R177: ARF changes only by the commit of a whole frame of id 1465, 1708 or 813, or by reset. -/
def Obligations.OnlyCommitsWriteTheAttitude : Prop :=
  ∀ s t : State, step s = .next t →
    t.arf = s.arf ∨
      (s.fsm = .message ∧ s.frame.frameEnd ≤ s.avail ∧ s.frame.msgId ∈ [(1465 : BitVec 16), 1708, 813] ∧ t.fsm = .emit) ∨
      ((s.host.rst = true ∨ t.host.rst = true) ∧ t.arf = Attitude.reset)

/-- R24: the cursor never decreases except at reset. -/
def Obligations.CursorNeverDecreases : Prop :=
  ∀ s t : State, s.Inv → s.host.rst = false → step s = .next t → t.host.rst = false → s.pos ≤ t.pos

/-- R120: in a state of the invariant no step raises UnknownHeaderKind. -/
def Obligations.UnknownKindIsNeverRaised : Prop :=
  ∀ s t : State, s.Inv → step s = .next t → ∀ e ∈ t.events, e ∈ s.events ∨ e.code ≠ 2

/-- R66: where the host raises no line, an enabled block step and the acceptance of a byte may be taken in either order. -/
def Obligations.AcceptingAByteCommutesWithTheBlock : Prop :=
  ∀ s t : State, s.Inv → s.host.Quiet → s.blockEnabled = true → blockStep s = .next t →
    blockStep s.recv = .next t.recv
end

