-- ==== Sys2Proof/Laws/Float64.lean ====
section
/-! SUPPORT. What the binary64 operations can answer: signs, finiteness, and the rounding as inequalities on exact integers. -/

namespace Sys2Proof

@[simp] theorem F64.ofMagnitude_sign (s : Bool) (m : Nat) : (F64.ofMagnitude s m).sign = s := by
  unfold F64.ofMagnitude
  split <;> rfl

@[simp] theorem F64.roundUnits_sign (s : Bool) (n d : Nat) : (F64.roundUnits s n d).sign = s := by
  simp only [F64.roundUnits, F64.ofMagnitude_sign]

theorem F64.ofMagnitude_isFinite (s : Bool) (m : Nat) : (F64.ofMagnitude s m).isFinite = true ↔ m < 2047 * 2 ^ 52 := by
  unfold F64.ofMagnitude
  split
  · simp only [F64.isFinite, true_iff]
    omega
  · simp only [F64.isFinite, Bool.false_eq_true, false_iff]
    omega

/-- A magnitude written as a fraction `q` under exponent offset `j` stands for `q * 2^j` units, the carry to the next binade
included. -/
theorem F64.ofMagnitude_units (s : Bool) {j q : Nat} (hq : q ≤ 2 ^ 53) (hj : j = 0 ∨ 2 ^ 52 ≤ q)
    (h : j * 2 ^ 52 + q < 2047 * 2 ^ 52) : (F64.ofMagnitude s (j * 2 ^ 52 + q)).units = q * 2 ^ j := by
  have hlt : (j * 2 ^ 52 + q) / 2 ^ 52 < 2047 := by omega
  unfold F64.ofMagnitude
  rw [dif_pos hlt]
  simp only [F64.units, BitVec.toNat_ofNat]
  rcases Nat.lt_or_ge q (2 ^ 52) with h1 | h1
  · obtain rfl : j = 0 := by omega
    have e1 : (0 * 2 ^ 52 + q) / 2 ^ 52 = 0 := by omega
    have e2 : (0 * 2 ^ 52 + q) % 2 ^ 52 = q := by omega
    rw [if_pos e1, e2, Nat.pow_zero, Nat.mul_one]
  rcases Nat.lt_or_ge q (2 ^ 53) with h2 | h2
  · have e1 : (j * 2 ^ 52 + q) / 2 ^ 52 = j + 1 := by omega
    have e2 : (j * 2 ^ 52 + q) % 2 ^ 52 = q - 2 ^ 52 := by omega
    have e3 : 2 ^ 52 + (q - 2 ^ 52) = q := by omega
    rw [if_neg (by omega), e1, e2, e3, Nat.add_sub_cancel]
  · obtain rfl : q = 2 ^ 53 := by omega
    have e1 : (j * 2 ^ 52 + 2 ^ 53) / 2 ^ 52 = j + 2 := by omega
    have e2 : (j * 2 ^ 52 + 2 ^ 53) % 2 ^ 52 = 0 := by omega
    rw [if_neg (by omega), e1, e2, Nat.add_zero, show j + 2 - 1 = j + 1 by omega]
    ring

/-- The rounding of `n / d`: a fraction `q` under an offset `j`, within half a quantum of the quotient, even at a tie. -/
theorem F64.roundUnits_cases (s : Bool) (n : Nat) {d : Nat} (hd : 0 < d) :
    ∃ j q : Nat, F64.roundUnits s n d = F64.ofMagnitude s (j * 2 ^ 52 + q) ∧ q ≤ 2 ^ 53 ∧ (j = 0 ∨ 2 ^ 52 ≤ q) ∧
      2 * n ≤ (2 * q + 1) * (d * 2 ^ j) ∧ 2 * q * (d * 2 ^ j) ≤ 2 * n + d * 2 ^ j ∧
      (2 * n = (2 * q + 1) * (d * 2 ^ j) ∨ 2 * q * (d * 2 ^ j) = 2 * n + d * 2 ^ j → q % 2 = 0) := by
  have hden : 0 < d * 2 ^ (Nat.log2 (n / d) - 52) := Nat.mul_pos hd (Nat.two_pow_pos _)
  have hq : n / (d * 2 ^ (Nat.log2 (n / d) - 52)) < 2 ^ 53 ∧
      (Nat.log2 (n / d) - 52 = 0 ∨ 2 ^ 52 ≤ n / (d * 2 ^ (Nat.log2 (n / d) - 52))) := by
    rw [← Nat.div_div_eq_div_mul]
    by_cases h0 : n / d = 0
    · rw [h0]
      exact ⟨by simp, .inl (by simp)⟩
    have hlo : 2 ^ Nat.log2 (n / d) ≤ n / d := Nat.log2_self_le h0
    have hhi : n / d < 2 ^ (Nat.log2 (n / d) + 1) := Nat.lt_log2_self
    generalize n / d = m at *
    generalize Nat.log2 m = l at *
    rcases Nat.le_total l 52 with hl | hl
    · rw [Nat.sub_eq_zero_of_le hl]
      refine ⟨?_, .inl rfl⟩
      have := Nat.pow_le_pow_right (n := 2) (by decide) (show l + 1 ≤ 53 by omega)
      simp only [Nat.pow_zero, Nat.div_one]
      omega
    · refine ⟨?_, .inr ?_⟩
      · rw [Nat.div_lt_iff_lt_mul (Nat.two_pow_pos _), ← Nat.pow_add, show 53 + (l - 52) = l + 1 by omega]
        exact hhi
      · rw [Nat.le_div_iff_mul_le (Nat.two_pow_pos _), ← Nat.pow_add, show 52 + (l - 52) = l by omega]
        exact hlo
  obtain ⟨hq1, hq2⟩ := hq
  have hdm := Nat.div_add_mod n (d * 2 ^ (Nat.log2 (n / d) - 52))
  have hr := Nat.mod_lt n hden
  refine ⟨Nat.log2 (n / d) - 52, _, by simp only [F64.roundUnits, Nat.add_assoc]; rfl, ?_⟩
  generalize d * 2 ^ (Nat.log2 (n / d) - 52) = den at *
  generalize n / den = q at *
  generalize n % den = r at *
  rw [Nat.mul_comm] at hdm
  have e1 : (2 * q + 1) * den = 2 * (q * den) + den := by ring
  have e2 : (2 * (q + 1) + 1) * den = 2 * (q * den) + 3 * den := by ring
  have e3 : 2 * (q + 1) * den = 2 * (q * den) + 2 * den := by ring
  have e4 : 2 * q * den = 2 * (q * den) := by ring
  split
  · rename_i hup
    simp only [Bool.or_eq_true, Bool.and_eq_true, decide_eq_true_eq] at hup
    rw [e2, e3]
    omega
  · rename_i hup
    simp only [Bool.or_eq_true, Bool.and_eq_true, decide_eq_true_eq, not_or, not_and] at hup
    rw [Nat.add_zero, e1, e4]
    omega

/-- The bit-by-bit square root, from the top `k` bits: it keeps `r * r <= n` and brackets the root. -/
theorem natSqrtBits_spec (k n r : Nat) (h1 : r * r ≤ n) (h2 : n < (r + 2 ^ k) * (r + 2 ^ k)) :
    natSqrtBits k n r * natSqrtBits k n r ≤ n ∧ n < (natSqrtBits k n r + 1) * (natSqrtBits k n r + 1) := by
  induction k generalizing r with
  | zero => simpa [natSqrtBits] using ⟨h1, h2⟩
  | succ k ih =>
    rw [natSqrtBits]
    have e : r + 2 ^ (k + 1) = r + 2 ^ k + 2 ^ k := by rw [Nat.pow_succ]; omega
    rw [e] at h2
    split
    · exact ih _ ‹_› h2
    · exact ih _ h1 (Nat.lt_of_not_le ‹_›)

theorem F64.le_fin (sx sy : Bool) (ex ey : Fin 2047) (fx fy : BitVec 52) :
    F64.le (.fin sx ex fx) (.fin sy ey fy) = true ↔ (F64.fin sx ex fx).toInt1074 ≤ (F64.fin sy ey fy).toInt1074 := by
  simp only [F64.le, decide_eq_true_eq]

theorem F64.lt_fin (sx sy : Bool) (ex ey : Fin 2047) (fx fy : BitVec 52) :
    F64.lt (.fin sx ex fx) (.fin sy ey fy) = true ↔ (F64.fin sx ex fx).toInt1074 < (F64.fin sy ey fy).toInt1074 := by
  simp only [F64.lt, decide_eq_true_eq]

/-- An operation with a NaN operand answers a NaN. -/
theorem F64.add_isNan {x y : F64} (h : x.isNan = true ∨ y.isNan = true) : (F64.add x y).isNan = true := by
  cases x <;> cases y <;> simp_all [F64.isNan, F64.add, F64.someNan]

theorem F64.mul_isNan {x y : F64} (h : x.isNan = true ∨ y.isNan = true) : (F64.mul x y).isNan = true := by
  cases x <;> cases y <;> simp_all [F64.isNan, F64.mul, F64.someNan]

theorem F64.div_isNan {x y : F64} (h : x.isNan = true ∨ y.isNan = true) : (F64.div x y).isNan = true := by
  cases x <;> cases y <;> simp_all [F64.isNan, F64.div, F64.someNan]

theorem F64.sqrt_isNan {x : F64} (h : x.isNan = true) : (F64.sqrt x).isNan = true := by
  cases x <;> simp_all [F64.isNan, F64.sqrt, F64.someNan]

end Sys2Proof
end

