-- ==== Sys2Proof/Laws/State.lean ====
section
/-! SUPPORT. One lemma per field per update of State. -/

namespace Sys2Proof.Machine

@[simp] theorem State.withArf_cfg (s : State) (v : Attitude) : (s.withArf v).cfg = s.cfg := rfl
@[simp] theorem State.withArf_arf (s : State) (v : Attitude) : (s.withArf v).arf = v := rfl
@[simp] theorem State.withArf_status (s : State) (v : Attitude) : (s.withArf v).status = s.status := rfl
@[simp] theorem State.withArf_pos (s : State) (v : Attitude) : (s.withArf v).pos = s.pos := rfl
@[simp] theorem State.withArf_input (s : State) (v : Attitude) : (s.withArf v).input = s.input := rfl
@[simp] theorem State.withArf_fsm (s : State) (v : Attitude) : (s.withArf v).fsm = s.fsm := rfl
@[simp] theorem State.withArf_frame (s : State) (v : Attitude) : (s.withArf v).frame = s.frame := rfl
@[simp] theorem State.withArf_hdr (s : State) (v : Attitude) : (s.withArf v).hdr = s.hdr := rfl
@[simp] theorem State.withArf_disc (s : State) (v : Attitude) : (s.withArf v).disc = s.disc := rfl
@[simp] theorem State.withArf_tx (s : State) (v : Attitude) : (s.withArf v).tx = s.tx := rfl
@[simp] theorem State.withArf_out (s : State) (v : Attitude) : (s.withArf v).out = s.out := rfl
@[simp] theorem State.withArf_events (s : State) (v : Attitude) : (s.withArf v).events = s.events := rfl
@[simp] theorem State.withArf_host (s : State) (v : Attitude) : (s.withArf v).host = s.host := rfl

@[simp] theorem State.withStatus_cfg (s : State) (v : Status) : (s.withStatus v).cfg = s.cfg := rfl
@[simp] theorem State.withStatus_arf (s : State) (v : Status) : (s.withStatus v).arf = s.arf := rfl
@[simp] theorem State.withStatus_status (s : State) (v : Status) : (s.withStatus v).status = v := rfl
@[simp] theorem State.withStatus_pos (s : State) (v : Status) : (s.withStatus v).pos = s.pos := rfl
@[simp] theorem State.withStatus_input (s : State) (v : Status) : (s.withStatus v).input = s.input := rfl
@[simp] theorem State.withStatus_fsm (s : State) (v : Status) : (s.withStatus v).fsm = s.fsm := rfl
@[simp] theorem State.withStatus_frame (s : State) (v : Status) : (s.withStatus v).frame = s.frame := rfl
@[simp] theorem State.withStatus_hdr (s : State) (v : Status) : (s.withStatus v).hdr = s.hdr := rfl
@[simp] theorem State.withStatus_disc (s : State) (v : Status) : (s.withStatus v).disc = s.disc := rfl
@[simp] theorem State.withStatus_tx (s : State) (v : Status) : (s.withStatus v).tx = s.tx := rfl
@[simp] theorem State.withStatus_out (s : State) (v : Status) : (s.withStatus v).out = s.out := rfl
@[simp] theorem State.withStatus_events (s : State) (v : Status) : (s.withStatus v).events = s.events := rfl
@[simp] theorem State.withStatus_host (s : State) (v : Status) : (s.withStatus v).host = s.host := rfl

@[simp] theorem State.withPos_cfg (s : State) (v : Nat) : (s.withPos v).cfg = s.cfg := rfl
@[simp] theorem State.withPos_arf (s : State) (v : Nat) : (s.withPos v).arf = s.arf := rfl
@[simp] theorem State.withPos_status (s : State) (v : Nat) : (s.withPos v).status = s.status := rfl
@[simp] theorem State.withPos_pos (s : State) (v : Nat) : (s.withPos v).pos = v := rfl
@[simp] theorem State.withPos_input (s : State) (v : Nat) : (s.withPos v).input = s.input := rfl
@[simp] theorem State.withPos_fsm (s : State) (v : Nat) : (s.withPos v).fsm = s.fsm := rfl
@[simp] theorem State.withPos_frame (s : State) (v : Nat) : (s.withPos v).frame = s.frame := rfl
@[simp] theorem State.withPos_hdr (s : State) (v : Nat) : (s.withPos v).hdr = s.hdr := rfl
@[simp] theorem State.withPos_disc (s : State) (v : Nat) : (s.withPos v).disc = s.disc := rfl
@[simp] theorem State.withPos_tx (s : State) (v : Nat) : (s.withPos v).tx = s.tx := rfl
@[simp] theorem State.withPos_out (s : State) (v : Nat) : (s.withPos v).out = s.out := rfl
@[simp] theorem State.withPos_events (s : State) (v : Nat) : (s.withPos v).events = s.events := rfl
@[simp] theorem State.withPos_host (s : State) (v : Nat) : (s.withPos v).host = s.host := rfl

@[simp] theorem State.withInput_cfg (s : State) (v : List Byte) : (s.withInput v).cfg = s.cfg := rfl
@[simp] theorem State.withInput_arf (s : State) (v : List Byte) : (s.withInput v).arf = s.arf := rfl
@[simp] theorem State.withInput_status (s : State) (v : List Byte) : (s.withInput v).status = s.status := rfl
@[simp] theorem State.withInput_pos (s : State) (v : List Byte) : (s.withInput v).pos = s.pos := rfl
@[simp] theorem State.withInput_input (s : State) (v : List Byte) : (s.withInput v).input = v := rfl
@[simp] theorem State.withInput_fsm (s : State) (v : List Byte) : (s.withInput v).fsm = s.fsm := rfl
@[simp] theorem State.withInput_frame (s : State) (v : List Byte) : (s.withInput v).frame = s.frame := rfl
@[simp] theorem State.withInput_hdr (s : State) (v : List Byte) : (s.withInput v).hdr = s.hdr := rfl
@[simp] theorem State.withInput_disc (s : State) (v : List Byte) : (s.withInput v).disc = s.disc := rfl
@[simp] theorem State.withInput_tx (s : State) (v : List Byte) : (s.withInput v).tx = s.tx := rfl
@[simp] theorem State.withInput_out (s : State) (v : List Byte) : (s.withInput v).out = s.out := rfl
@[simp] theorem State.withInput_events (s : State) (v : List Byte) : (s.withInput v).events = s.events := rfl
@[simp] theorem State.withInput_host (s : State) (v : List Byte) : (s.withInput v).host = s.host := rfl

@[simp] theorem State.withFsm_cfg (s : State) (v : Fsm) : (s.withFsm v).cfg = s.cfg := rfl
@[simp] theorem State.withFsm_arf (s : State) (v : Fsm) : (s.withFsm v).arf = s.arf := rfl
@[simp] theorem State.withFsm_status (s : State) (v : Fsm) : (s.withFsm v).status = s.status := rfl
@[simp] theorem State.withFsm_pos (s : State) (v : Fsm) : (s.withFsm v).pos = s.pos := rfl
@[simp] theorem State.withFsm_input (s : State) (v : Fsm) : (s.withFsm v).input = s.input := rfl
@[simp] theorem State.withFsm_fsm (s : State) (v : Fsm) : (s.withFsm v).fsm = v := rfl
@[simp] theorem State.withFsm_frame (s : State) (v : Fsm) : (s.withFsm v).frame = s.frame := rfl
@[simp] theorem State.withFsm_hdr (s : State) (v : Fsm) : (s.withFsm v).hdr = s.hdr := rfl
@[simp] theorem State.withFsm_disc (s : State) (v : Fsm) : (s.withFsm v).disc = s.disc := rfl
@[simp] theorem State.withFsm_tx (s : State) (v : Fsm) : (s.withFsm v).tx = s.tx := rfl
@[simp] theorem State.withFsm_out (s : State) (v : Fsm) : (s.withFsm v).out = s.out := rfl
@[simp] theorem State.withFsm_events (s : State) (v : Fsm) : (s.withFsm v).events = s.events := rfl
@[simp] theorem State.withFsm_host (s : State) (v : Fsm) : (s.withFsm v).host = s.host := rfl

@[simp] theorem State.withFrame_cfg (s : State) (v : FrameLatches) : (s.withFrame v).cfg = s.cfg := rfl
@[simp] theorem State.withFrame_arf (s : State) (v : FrameLatches) : (s.withFrame v).arf = s.arf := rfl
@[simp] theorem State.withFrame_status (s : State) (v : FrameLatches) : (s.withFrame v).status = s.status := rfl
@[simp] theorem State.withFrame_pos (s : State) (v : FrameLatches) : (s.withFrame v).pos = s.pos := rfl
@[simp] theorem State.withFrame_input (s : State) (v : FrameLatches) : (s.withFrame v).input = s.input := rfl
@[simp] theorem State.withFrame_fsm (s : State) (v : FrameLatches) : (s.withFrame v).fsm = s.fsm := rfl
@[simp] theorem State.withFrame_frame (s : State) (v : FrameLatches) : (s.withFrame v).frame = v := rfl
@[simp] theorem State.withFrame_hdr (s : State) (v : FrameLatches) : (s.withFrame v).hdr = s.hdr := rfl
@[simp] theorem State.withFrame_disc (s : State) (v : FrameLatches) : (s.withFrame v).disc = s.disc := rfl
@[simp] theorem State.withFrame_tx (s : State) (v : FrameLatches) : (s.withFrame v).tx = s.tx := rfl
@[simp] theorem State.withFrame_out (s : State) (v : FrameLatches) : (s.withFrame v).out = s.out := rfl
@[simp] theorem State.withFrame_events (s : State) (v : FrameLatches) : (s.withFrame v).events = s.events := rfl
@[simp] theorem State.withFrame_host (s : State) (v : FrameLatches) : (s.withFrame v).host = s.host := rfl

@[simp] theorem State.withHdr_cfg (s : State) (v : HeaderLatches) : (s.withHdr v).cfg = s.cfg := rfl
@[simp] theorem State.withHdr_arf (s : State) (v : HeaderLatches) : (s.withHdr v).arf = s.arf := rfl
@[simp] theorem State.withHdr_status (s : State) (v : HeaderLatches) : (s.withHdr v).status = s.status := rfl
@[simp] theorem State.withHdr_pos (s : State) (v : HeaderLatches) : (s.withHdr v).pos = s.pos := rfl
@[simp] theorem State.withHdr_input (s : State) (v : HeaderLatches) : (s.withHdr v).input = s.input := rfl
@[simp] theorem State.withHdr_fsm (s : State) (v : HeaderLatches) : (s.withHdr v).fsm = s.fsm := rfl
@[simp] theorem State.withHdr_frame (s : State) (v : HeaderLatches) : (s.withHdr v).frame = s.frame := rfl
@[simp] theorem State.withHdr_hdr (s : State) (v : HeaderLatches) : (s.withHdr v).hdr = v := rfl
@[simp] theorem State.withHdr_disc (s : State) (v : HeaderLatches) : (s.withHdr v).disc = s.disc := rfl
@[simp] theorem State.withHdr_tx (s : State) (v : HeaderLatches) : (s.withHdr v).tx = s.tx := rfl
@[simp] theorem State.withHdr_out (s : State) (v : HeaderLatches) : (s.withHdr v).out = s.out := rfl
@[simp] theorem State.withHdr_events (s : State) (v : HeaderLatches) : (s.withHdr v).events = s.events := rfl
@[simp] theorem State.withHdr_host (s : State) (v : HeaderLatches) : (s.withHdr v).host = s.host := rfl

@[simp] theorem State.withDisc_cfg (s : State) (v : DiscardRun) : (s.withDisc v).cfg = s.cfg := rfl
@[simp] theorem State.withDisc_arf (s : State) (v : DiscardRun) : (s.withDisc v).arf = s.arf := rfl
@[simp] theorem State.withDisc_status (s : State) (v : DiscardRun) : (s.withDisc v).status = s.status := rfl
@[simp] theorem State.withDisc_pos (s : State) (v : DiscardRun) : (s.withDisc v).pos = s.pos := rfl
@[simp] theorem State.withDisc_input (s : State) (v : DiscardRun) : (s.withDisc v).input = s.input := rfl
@[simp] theorem State.withDisc_fsm (s : State) (v : DiscardRun) : (s.withDisc v).fsm = s.fsm := rfl
@[simp] theorem State.withDisc_frame (s : State) (v : DiscardRun) : (s.withDisc v).frame = s.frame := rfl
@[simp] theorem State.withDisc_hdr (s : State) (v : DiscardRun) : (s.withDisc v).hdr = s.hdr := rfl
@[simp] theorem State.withDisc_disc (s : State) (v : DiscardRun) : (s.withDisc v).disc = v := rfl
@[simp] theorem State.withDisc_tx (s : State) (v : DiscardRun) : (s.withDisc v).tx = s.tx := rfl
@[simp] theorem State.withDisc_out (s : State) (v : DiscardRun) : (s.withDisc v).out = s.out := rfl
@[simp] theorem State.withDisc_events (s : State) (v : DiscardRun) : (s.withDisc v).events = s.events := rfl
@[simp] theorem State.withDisc_host (s : State) (v : DiscardRun) : (s.withDisc v).host = s.host := rfl

@[simp] theorem State.withTx_cfg (s : State) (v : OutRecord) : (s.withTx v).cfg = s.cfg := rfl
@[simp] theorem State.withTx_arf (s : State) (v : OutRecord) : (s.withTx v).arf = s.arf := rfl
@[simp] theorem State.withTx_status (s : State) (v : OutRecord) : (s.withTx v).status = s.status := rfl
@[simp] theorem State.withTx_pos (s : State) (v : OutRecord) : (s.withTx v).pos = s.pos := rfl
@[simp] theorem State.withTx_input (s : State) (v : OutRecord) : (s.withTx v).input = s.input := rfl
@[simp] theorem State.withTx_fsm (s : State) (v : OutRecord) : (s.withTx v).fsm = s.fsm := rfl
@[simp] theorem State.withTx_frame (s : State) (v : OutRecord) : (s.withTx v).frame = s.frame := rfl
@[simp] theorem State.withTx_hdr (s : State) (v : OutRecord) : (s.withTx v).hdr = s.hdr := rfl
@[simp] theorem State.withTx_disc (s : State) (v : OutRecord) : (s.withTx v).disc = s.disc := rfl
@[simp] theorem State.withTx_tx (s : State) (v : OutRecord) : (s.withTx v).tx = v := rfl
@[simp] theorem State.withTx_out (s : State) (v : OutRecord) : (s.withTx v).out = s.out := rfl
@[simp] theorem State.withTx_events (s : State) (v : OutRecord) : (s.withTx v).events = s.events := rfl
@[simp] theorem State.withTx_host (s : State) (v : OutRecord) : (s.withTx v).host = s.host := rfl

@[simp] theorem State.withOut_cfg (s : State) (v : List Byte) : (s.withOut v).cfg = s.cfg := rfl
@[simp] theorem State.withOut_arf (s : State) (v : List Byte) : (s.withOut v).arf = s.arf := rfl
@[simp] theorem State.withOut_status (s : State) (v : List Byte) : (s.withOut v).status = s.status := rfl
@[simp] theorem State.withOut_pos (s : State) (v : List Byte) : (s.withOut v).pos = s.pos := rfl
@[simp] theorem State.withOut_input (s : State) (v : List Byte) : (s.withOut v).input = s.input := rfl
@[simp] theorem State.withOut_fsm (s : State) (v : List Byte) : (s.withOut v).fsm = s.fsm := rfl
@[simp] theorem State.withOut_frame (s : State) (v : List Byte) : (s.withOut v).frame = s.frame := rfl
@[simp] theorem State.withOut_hdr (s : State) (v : List Byte) : (s.withOut v).hdr = s.hdr := rfl
@[simp] theorem State.withOut_disc (s : State) (v : List Byte) : (s.withOut v).disc = s.disc := rfl
@[simp] theorem State.withOut_tx (s : State) (v : List Byte) : (s.withOut v).tx = s.tx := rfl
@[simp] theorem State.withOut_out (s : State) (v : List Byte) : (s.withOut v).out = v := rfl
@[simp] theorem State.withOut_events (s : State) (v : List Byte) : (s.withOut v).events = s.events := rfl
@[simp] theorem State.withOut_host (s : State) (v : List Byte) : (s.withOut v).host = s.host := rfl

@[simp] theorem State.withEvents_cfg (s : State) (v : List Event) : (s.withEvents v).cfg = s.cfg := rfl
@[simp] theorem State.withEvents_arf (s : State) (v : List Event) : (s.withEvents v).arf = s.arf := rfl
@[simp] theorem State.withEvents_status (s : State) (v : List Event) : (s.withEvents v).status = s.status := rfl
@[simp] theorem State.withEvents_pos (s : State) (v : List Event) : (s.withEvents v).pos = s.pos := rfl
@[simp] theorem State.withEvents_input (s : State) (v : List Event) : (s.withEvents v).input = s.input := rfl
@[simp] theorem State.withEvents_fsm (s : State) (v : List Event) : (s.withEvents v).fsm = s.fsm := rfl
@[simp] theorem State.withEvents_frame (s : State) (v : List Event) : (s.withEvents v).frame = s.frame := rfl
@[simp] theorem State.withEvents_hdr (s : State) (v : List Event) : (s.withEvents v).hdr = s.hdr := rfl
@[simp] theorem State.withEvents_disc (s : State) (v : List Event) : (s.withEvents v).disc = s.disc := rfl
@[simp] theorem State.withEvents_tx (s : State) (v : List Event) : (s.withEvents v).tx = s.tx := rfl
@[simp] theorem State.withEvents_out (s : State) (v : List Event) : (s.withEvents v).out = s.out := rfl
@[simp] theorem State.withEvents_events (s : State) (v : List Event) : (s.withEvents v).events = v := rfl
@[simp] theorem State.withEvents_host (s : State) (v : List Event) : (s.withEvents v).host = s.host := rfl

@[simp] theorem State.withHost_cfg (s : State) (v : HostSide) : (s.withHost v).cfg = s.cfg := rfl
@[simp] theorem State.withHost_arf (s : State) (v : HostSide) : (s.withHost v).arf = s.arf := rfl
@[simp] theorem State.withHost_status (s : State) (v : HostSide) : (s.withHost v).status = s.status := rfl
@[simp] theorem State.withHost_pos (s : State) (v : HostSide) : (s.withHost v).pos = s.pos := rfl
@[simp] theorem State.withHost_input (s : State) (v : HostSide) : (s.withHost v).input = s.input := rfl
@[simp] theorem State.withHost_fsm (s : State) (v : HostSide) : (s.withHost v).fsm = s.fsm := rfl
@[simp] theorem State.withHost_frame (s : State) (v : HostSide) : (s.withHost v).frame = s.frame := rfl
@[simp] theorem State.withHost_hdr (s : State) (v : HostSide) : (s.withHost v).hdr = s.hdr := rfl
@[simp] theorem State.withHost_disc (s : State) (v : HostSide) : (s.withHost v).disc = s.disc := rfl
@[simp] theorem State.withHost_tx (s : State) (v : HostSide) : (s.withHost v).tx = s.tx := rfl
@[simp] theorem State.withHost_out (s : State) (v : HostSide) : (s.withHost v).out = s.out := rfl
@[simp] theorem State.withHost_events (s : State) (v : HostSide) : (s.withHost v).events = s.events := rfl
@[simp] theorem State.withHost_host (s : State) (v : HostSide) : (s.withHost v).host = v := rfl

end Sys2Proof.Machine
end

