-- ==== Sys2Proof/Laws/Stream.lean ====
section
/-! SUPPORT. The accepted stream: what a read sees, its canonical form, and that accepting a byte keeps both. -/

namespace Sys2Proof.Machine

theorem State.bytes_length {s : State} {off n : Nat} (h : off + n ≤ s.avail) : (s.bytes off n).length = n := by
  simp only [State.bytes, State.avail, List.length_take, List.length_drop] at *
  omega

/-- Reading inside the accepted bytes does not see bytes accepted later (10_state.md R25). -/
theorem bytes_append_stable (l m : List Byte) {off n : Nat} (h : off + n ≤ l.length) :
    ((l ++ m).drop off).take n = (l.drop off).take n := by
  rw [List.drop_append_of_le_length (by omega), List.take_append_of_le_length (by simp; omega)]

/-- The cells of every stream are in canonical form. -/
theorem State.cells_wf (s : State) : Memory.wf s.cells = true := by
  simp only [Memory.wf, State.cells, decide_eq_true_eq, List.pairwise_map]
  rw [List.pairwise_iff_getElem]
  intro i j hi hj hij
  simpa using hij

/-- A cell of the stream is a byte at its offset, and no other. -/
theorem State.mem_cells_iff (s : State) (a : Nat) (b : Byte) : (a, b) ∈ s.cells ↔ s.byteAt a = some b := by
  simp [State.cells, State.byteAt, List.mk_mem_zipIdx_iff_getElem?]

/-- The handshake either does nothing (no byte presented, or STOPPED) or accepts exactly the byte presented (20_memory.md
R51, R52). -/
theorem State.recv_cases (s : State) :
    (s.recv = s ∧ (s.host.inq = [] ∨ s.fsm = .stopped)) ∨
    (∃ b bs, s.host.inq = b :: bs ∧ s.fsm ≠ .stopped ∧
      s.recv = { s with input := s.input ++ [b], host := { s.host with inq := bs } }) := by
  unfold State.recv
  split
  · exact .inl ⟨rfl, .inl ‹_›⟩
  · split
    · exact .inl ⟨rfl, .inr ‹_›⟩
    · exact .inr ⟨_, _, ‹_›, ‹_›, rfl⟩

end Sys2Proof.Machine
end

