-- ==== Sys2Proof/Laws/Ops.lean ====
section
/-! SUPPORT. For each shared operation, once, everything it can do: the whole new state as a record update of the old one, or
the cases it has. Later proofs cite these and unfold nothing. -/

namespace Sys2Proof.Machine

variable {s t : State}

theorem State.raise_eq (s : State) (e : Event) : s.raise e = { s with events := s.events ++ [e] } := rfl

theorem State.emitBytes_eq (s : State) (bs : List Byte) : s.emitBytes bs = { s with out := s.out ++ bs } := rfl

theorem State.withSched_eq (s : State) (ts : List Turn) : s.withSched ts = { s with host := { s.host with sched := ts } } := rfl

theorem State.abortFrame_eq (s : State) (e : Event) :
    s.abortFrame e = { s with events := s.events ++ [e], pos := s.frame.frameEnd, fsm := .idle } := rfl

theorem State.stopWith_eq (s : State) (e : Event) :
    s.stopWith e = { s with events := s.events ++ [e], fsm := .stopped } := rfl

/-- A block step with a `require` answers a next state: the rule's, or the same state where the rule is not enabled. -/
theorem stepIf_eq (b : Bool) (t s : State) : stepIf b t s = .next (if b = true then t else s) := rfl

theorem stepIf_true {b : Bool} (h : b = true) (t s : State) : stepIf b t s = .next t := by subst h; rfl

theorem stepIf_false {b : Bool} (h : b = false) (t s : State) : stepIf b t s = .next s := by subst h; rfl

@[simp] theorem State.syncHere_iff (s : State) (w : List Byte) :
    s.syncHere w = true ↔ s.fsm = .waitSync ∧ s.pos + 3 ≤ s.avail ∧ s.bytes s.pos 3 = w := by simp [State.syncHere]

@[simp] theorem State.messageHere_iff (s : State) (id : BitVec 16) :
    s.messageHere id = true ↔ s.fsm = .message ∧ s.frame.frameEnd ≤ s.avail ∧ s.frame.msgId = id := by
  simp [State.messageHere]

/-- The end of a discard run: at most one event, and the run registers cleared (R101, R107). -/
theorem State.endDiscardRun_eq (s : State) :
    s.endDiscardRun =
      { s with events := s.events ++ (if 0 < s.disc.cnt then [.framing s.disc] else []), disc := ⟨0, 0⟩ } := by
  unfold State.endDiscardRun
  split <;> simp [State.withDisc, State.raise, State.withEvents]

theorem State.matchSync_eq (s : State) (k : FrameKind) :
    s.matchSync k =
      { s with
        events := s.events ++ (if 0 < s.disc.cnt then [.framing s.disc] else []), disc := ⟨0, 0⟩
        frame := { s.frame with kind := k, syncOff := s.pos } } := by
  simp only [State.matchSync, State.endDiscardRun_eq, State.withFrame]

theorem State.openFrame_eq (s : State) (k : FrameKind) (hl : Nat) :
    s.openFrame k hl =
      { s with
        events := s.events ++ (if 0 < s.disc.cnt then [.framing s.disc] else []), disc := ⟨0, 0⟩
        frame := { s.frame with kind := k, syncOff := s.pos, hl := hl }, fsm := .header } := by
  simp only [State.openFrame, State.matchSync_eq, State.withFrame, State.withFsm]

theorem State.discardByte_eq (s : State) :
    s.discardByte =
      { s with disc := ⟨s.disc.cnt + 1, if s.disc.cnt = 0 then s.pos else s.disc.start⟩, pos := s.pos + 1 } := rfl

theorem State.latchFrame_eq (s : State) (hl : Nat) (id len : BitVec 16) :
    s.latchFrame hl id len =
      { s with
        frame := { s.frame with msgId := id, msgLen := len, frameEnd := s.frame.syncOff + hl + len.toNat + 4 }
        fsm := .message } := rfl

/-- The InfoText measurement: no byte and nothing happens; a text byte is passed; another byte ends the run. -/
theorem State.textStep_cases (s : State) :
    (s.byteAt s.pos = none ∧ s.textStep = s) ∨
    (∃ b, s.byteAt s.pos = some b ∧ textOk b = true ∧ s.textStep = { s with pos := s.pos + 1 }) ∨
    (∃ b, s.byteAt s.pos = some b ∧ textOk b = false ∧
      s.textStep = { s with frame := { s.frame with hl := s.pos - s.frame.syncOff }, fsm := .idle }) := by
  unfold State.textStep
  split
  · exact .inl ⟨‹_›, rfl⟩
  · next b hb =>
    split
    · exact .inr (.inl ⟨b, hb, ‹_›, rfl⟩)
    · exact .inr (.inr ⟨b, hb, Bool.eq_false_iff.mpr ‹_›, rfl⟩)

/-- The disposition: the whole candidate committed with its record, or the frame aborted with the first register that fails
(R175, R226). -/
theorem State.dispose_cases (s : State) (cand : Attitude) :
    (cand.firstViolation = none ∧
      s.dispose cand =
        { s with arf := cand, tx := ⟨recordOf cand s.status, 0⟩, pos := s.frame.frameEnd, fsm := .emit }) ∨
    (∃ r, cand.firstViolation = some r ∧ s.dispose cand = s.abortFrame (.outOfRange r s.frame)) := by
  unfold State.dispose
  split
  · exact .inr ⟨_, ‹_›, rfl⟩
  · exact .inl ⟨‹_›, rfl⟩

/-- A supported arm: a length mismatch aborts, anything else is disposed of. -/
theorem State.supported_cases (s : State) (k : MsgKind) (upd : FieldRecord → Attitude → Attitude) :
    (s.frame.msgLen.toNat < (s.layout k).size ∧ s.supported k upd = s.abortFrame (.lengthMismatch s.frame)) ∨
    ((s.layout k).size ≤ s.frame.msgLen.toNat ∧ s.supported k upd = s.dispose (upd (s.fieldsOf k) s.arf)) := by
  unfold State.supported
  split
  · exact .inl ⟨‹_›, rfl⟩
  · exact .inr ⟨Nat.le_of_not_lt ‹_›, rfl⟩

/-- A delivery: one byte of the record, and IDLE after the last. -/
theorem State.deliver_eq (s : State) (h : s.tx.ocnt < 26) :
    s.deliver =
      { s with
        out := s.out ++ [s.tx.obuf[s.tx.ocnt]], tx := ⟨s.tx.obuf, s.tx.ocnt + 1⟩
        fsm := if s.tx.ocnt + 1 = 26 then .idle else s.fsm } := by
  unfold State.deliver
  rw [dif_pos h]
  simp only [State.emitBytes, State.withOut, State.withTx, State.withFsm]
  split <;> rfl

/-- What the output port presents, and when (20_memory.md R56, log 28). -/
theorem State.outData_eq_some (s : State) (b : Byte) :
    s.outData = some b ↔
      s.fsm = .emit ∧ s.failing = false ∧ s.host.rst = false ∧ s.tx.obuf.toList[s.tx.ocnt]? = some b := by
  unfold State.outData
  split <;> simp_all

/-- The header dispatch on the frame kind (R120). -/
theorem State.headerDecode_cases (s : State) :
    s.headerDecode = s ∨
    (s.frame.kind = .long ∧ s.fsm = .header ∧ s.frame.syncOff + 28 ≤ s.avail ∧ s.headerDecode = s.decodeLong) ∨
    (s.frame.kind = .short ∧ s.fsm = .header ∧ s.frame.syncOff + 12 ≤ s.avail ∧ s.headerDecode = s.decodeShort) ∨
    (s.frame.kind = .infoText ∧ s.fsm = .textSkip ∧ s.headerDecode = s.textStep) ∨
    (s.frame.kind = .unknown ∧ s.headerDecode = s.stopWith (.unknownHeaderKind s.frame)) := by
  unfold State.headerDecode
  split
  · split
    · exact .inr (.inl ⟨‹_›, ‹_ ∧ _›.1, ‹_ ∧ _›.2, rfl⟩)
    · exact .inl rfl
  · split
    · exact .inr (.inr (.inl ⟨‹_›, ‹_ ∧ _›.1, ‹_ ∧ _›.2, rfl⟩))
    · exact .inl rfl
  · split
    · exact .inr (.inr (.inr (.inl ⟨‹_›, ‹_›, rfl⟩)))
    · exact .inl rfl
  · exact .inr (.inr (.inr (.inr ⟨‹_›, rfl⟩)))

/-- The block steps that run no instruction: one row of the transition table, or nothing (R220). -/
theorem State.control_cases (s : State) :
    s.control = s ∨
    (s.failing = true ∧ s.control = s.ioFail) ∨
    (s.failing = false ∧ s.stopping = true ∧ s.control = s.withFsm .stopped) ∨
    (s.failing = false ∧ s.stopping = false ∧ s.fsm = .idle ∧ s.control = s.withFsm .waitSync) ∨
    (s.failing = false ∧ s.stopping = false ∧ s.rowReady = true ∧ (s.fsm = .textSkip ∨ s.fsm = .header) ∧
      s.control = s.headerDecode) ∨
    (s.failing = false ∧ s.stopping = false ∧ s.rowReady = true ∧ s.fsm = .emit ∧ s.control = s.deliver) := by
  unfold State.control
  split
  · exact .inr (.inl ⟨‹_›, rfl⟩)
  split
  · exact .inr (.inr (.inl ⟨by simpa using ‹¬s.failing = true›, ‹_›, rfl⟩))
  have hf : s.failing = false := by simpa using ‹¬s.failing = true›
  have hs : s.stopping = false := by simpa using ‹¬s.stopping = true›
  split
  · split
    · exact .inr (.inr (.inr (.inl ⟨hf, hs, ‹_›, rfl⟩)))
    · exact .inr (.inr (.inr (.inr (.inl ⟨hf, hs, ‹_›, .inl ‹_›, rfl⟩))))
    · exact .inr (.inr (.inr (.inr (.inl ⟨hf, hs, ‹_›, .inr ‹_›, rfl⟩))))
    · exact .inr (.inr (.inr (.inr (.inr ⟨hf, hs, ‹_›, ‹_›, rfl⟩))))
    all_goals exact .inl rfl
  · exact .inl rfl

/-- A fetch answers only in WAIT_SYNC with three bytes at the cursor, or in MESSAGE with the whole frame present, and never
when a failure or a stop comes first. -/
theorem State.fetch_cases {i : Instr} (h : s.fetch = some i) :
    s.failing = false ∧ s.stopping = false ∧ s.rowReady = true ∧
      ((s.fsm = .waitSync ∧ ∃ rest, decode .sync (s.bytes s.pos 3) = .ok (i, rest)) ∨
        (s.fsm = .message ∧ ∃ rest, decode .msgId (leBytes 2 s.frame.msgId.toNat) = .ok (i, rest))) := by
  unfold State.fetch at h
  split at h
  · cases h
  · next hc =>
    simp only [Bool.or_eq_true, Bool.not_eq_true', not_or, Bool.not_eq_true, Bool.not_eq_false] at hc
    refine ⟨hc.1.1, hc.1.2, hc.2, ?_⟩
    split at h
    · split at h
      · cases h
        exact .inl ⟨‹_›, _, ‹_›⟩
      · cases h
    · split at h
      · cases h
        exact .inr ⟨‹_›, _, ‹_›⟩
      · cases h
    · cases h

/-- A block step: the instruction fetched, or the control row. -/
theorem blockStep_cases (s : State) :
    (∃ i, s.fetch = some i ∧ blockStep s = exec i s) ∨ (s.fetch = none ∧ blockStep s = .next s.control) := by
  unfold blockStep
  split
  · exact .inl ⟨_, ‹_›, rfl⟩
  · exact .inr ⟨‹_›, rfl⟩

/-- A turn of the host's own changes nothing but the host's side. -/
theorem State.hostSide_eq (s : State) (t : Turn) : s.hostSide t = { s with host := (s.hostSide t).host } := by
  cases t <;> rfl

/-- A turn, with the priority of reset (R261). -/
theorem State.takeTurn_cases (s : State) (t : Turn) :
    ((s.host.rst = true ∨ (s.hostSide t).host.rst = true) ∧ s.takeTurn t = .done (s.hostSide t).applyReset) ∨
    (s.host.rst = false ∧ (s.hostSide t).host.rst = false ∧
      ((t = .block ∧ s.takeTurn t = .block s) ∨ (t = .recv ∧ s.takeTurn t = .done s.recv) ∨
        (∃ v, t = .status v ∧ s.takeTurn t = .done (s.withStatus v)) ∨ s.takeTurn t = .done (s.hostSide t))) := by
  unfold State.takeTurn
  by_cases h : (s.host.rst || (s.hostSide t).host.rst) = true
  · exact .inl ⟨by simpa using h, by simp [h]⟩
  · have h' := h
    simp only [Bool.or_eq_true, not_or, Bool.not_eq_true] at h'
    refine .inr ⟨h'.1, h'.2, ?_⟩
    simp only [if_neg h]
    cases t
    · exact .inl ⟨rfl, rfl⟩
    · exact .inr (.inl ⟨rfl, rfl⟩)
    all_goals first
      | exact .inr (.inr (.inl ⟨_, rfl, rfl⟩))
      | exact .inr (.inr (.inr rfl))

/-- One step: the schedule's next turn, or the default turn of an empty schedule. -/
theorem step_eq (s : State) :
    step s = (match s.arbitrate with | .done t => Host.Outcome.next t | .block t => blockStep t) := rfl

theorem State.arbitrate_cons {u : Turn} {us : List Turn} (h : s.host.sched = u :: us) :
    s.arbitrate = (s.withSched us).takeTurn u := by
  unfold State.arbitrate
  rw [h]

theorem State.arbitrate_nil (h : s.host.sched = []) :
    s.arbitrate = s.takeTurn (if s.blockEnabled = true then .block else .recv) := by
  unfold State.arbitrate
  rw [h]

theorem State.popped_eq (s : State) :
    s.popped = { s with host := { s.host with sched := s.host.sched.tail } } := rfl

theorem State.popped_cons {u : Turn} {us : List Turn} (h : s.host.sched = u :: us) : s.popped = s.withSched us := by
  simp only [State.popped, h, List.tail_cons]

theorem State.popped_nil (h : s.host.sched = []) : s.popped = s := by
  simp only [State.popped_eq, h, List.tail_nil]
  rw [← h]

/-- On a block turn, without reset, the step is the block step of the state with the turn taken off the schedule. -/
theorem step_blockTurn (h : s.BlockTurn) (hr : s.host.rst = false) : step s = blockStep s.popped := by
  rcases h with h | ⟨h, he⟩
  · obtain ⟨us, hus⟩ : ∃ us, s.host.sched = .block :: us := by
      cases hs : s.host.sched <;> simp_all
    rw [step_eq, State.arbitrate_cons hus, State.popped_cons hus]
    simp [State.takeTurn, State.hostSide, State.withSched, hr]
  · rw [step_eq, State.arbitrate_nil h, State.popped_nil h]
    simp [he, State.takeTurn, State.hostSide, hr]

/-- Reading bytes in stream order is the sum of 00_scope.md R14. -/
theorem leNat_eq_sum (bs : List Byte) :
    leNat bs = ((List.range bs.length).map fun k => ((bs[k]?).getD 0).toNat * 256 ^ k).sum := by
  induction bs with
  | nil => rfl
  | cons b bs ih =>
    rw [leNat, ih, List.length_cons, List.range_succ_eq_map, List.map_cons, List.map_map, List.sum_cons,
      ← List.sum_map_mul_left]
    simp [Function.comp_def, Nat.pow_succ]
    congr 2
    funext k
    ring

/-- `MemRead` is the sum of R14 wherever it is defined. -/
theorem State.memRead_eq_sumAt {s : State} {off n : Nat} (h : off + n ≤ s.avail) : s.memRead off n = s.sumAt off n := by
  rw [State.memRead, leNat_eq_sum, State.bytes_length h, State.sumAt]
  congr 1
  refine List.map_congr_left fun k hk => ?_
  have hk' : k < n := List.mem_range.mp hk
  simp [State.bytes, State.byteAt, hk']

/-- A record has one entry per field of the layout, in its order and under its names. -/
theorem State.unpack_names (s : State) (l : Layout) (a : Nat) : (s.unpack l a).map Prod.fst = l.map Field.name := by
  induction l generalizing a with
  | nil => rfl
  | cons f fs ih => simp only [State.unpack, List.map_cons, ih]

/-- The entry of a field is read after the fields before it, with no padding (30_encoding.md R76). -/
theorem State.unpack_getElem? (s : State) (l : Layout) (a j : Nat) :
    (s.unpack l a)[j]? = l[j]?.map fun f =>
      (f.name, decodeField f.type (s.bytes (a + ((l.take j).map fun g => g.type.width).sum) f.type.width)) := by
  induction l generalizing a j with
  | nil => simp [State.unpack]
  | cons g fs ih =>
    cases j with
    | zero => simp [State.unpack]
    | succ j => simp [State.unpack, ih, Nat.add_assoc]

end Sys2Proof.Machine
end

