-- ==== Sys2Proof/Laws/PerInstr.lean ====
section
/-! SUPPORT. Facts about instructions as syntax, one lemma per constructor. -/

namespace Sys2Proof

/-- How many bytes select an instruction of a level (30_encoding.md R70, R80). -/
def Level.byteCount : Level → Nat
  | .sync => 3
  | .msgId => 2

/-- The encoding of an instruction has the length of its level. -/
def Laws.EncodedLength.Statement (i : Instr) : Prop := (encode i).length = i.level.byteCount

theorem Laws.EncodedLength.syncLong : Laws.EncodedLength.Statement .syncLong := rfl
theorem Laws.EncodedLength.syncShort : Laws.EncodedLength.Statement .syncShort := rfl
theorem Laws.EncodedLength.syncInfoText : Laws.EncodedLength.Statement .syncInfoText := rfl
theorem Laws.EncodedLength.syncNone (b0 b1 b2 : Byte) : Laws.EncodedLength.Statement (.syncNone b0 b1 b2) := rfl
theorem Laws.EncodedLength.msg1462 : Laws.EncodedLength.Statement .msg1462 := rfl
theorem Laws.EncodedLength.msg1457 : Laws.EncodedLength.Statement .msg1457 := rfl
theorem Laws.EncodedLength.msg319 : Laws.EncodedLength.Statement .msg319 := rfl
theorem Laws.EncodedLength.msg1465 : Laws.EncodedLength.Statement .msg1465 := rfl
theorem Laws.EncodedLength.msg508 : Laws.EncodedLength.Statement .msg508 := rfl
theorem Laws.EncodedLength.msg1708 : Laws.EncodedLength.Statement .msg1708 := rfl
theorem Laws.EncodedLength.msg1382 : Laws.EncodedLength.Statement .msg1382 := rfl
theorem Laws.EncodedLength.msg813 : Laws.EncodedLength.Statement .msg813 := rfl
theorem Laws.EncodedLength.msgUnsupported (id : BitVec 16) : Laws.EncodedLength.Statement (.msgUnsupported id) := rfl

end Sys2Proof
end

