-- ==== Sys2Proof/Tests/Slice0.lean ====
section
/-! SUPPORT. The model's own tests: expected values from spec/95_test_vectors.md and from the encoding tables, and one witness
for every statement that has hypotheses. -/

namespace Sys2Proof.Machine.Tests

/-! ## The fixture: layout TL and small states (95_test_vectors.md, section 1) -/

/-- TL. -/
def paramsTL : Params where
  l1462 := [⟨"a", .u8⟩, ⟨"b", .i8⟩, ⟨"c", .u16⟩, ⟨"d", .i16⟩, ⟨"e", .u32⟩, ⟨"f", .i32⟩, ⟨"g", .u64⟩, ⟨"h", .i64⟩,
    ⟨"st", .bytes 2⟩]
  l1457 := [⟨"st", .bytes 4⟩]
  l319 := [⟨"x", .f32⟩]
  l1465 := [⟨"up_vel", .f64⟩, ⟨"north_vel", .f64⟩, ⟨"east_vel", .f64⟩, ⟨"roll", .f64⟩, ⟨"pitch", .f64⟩]
  l508 := [⟨"v", .f64⟩]
  l1708 := [⟨"vertical_acc", .f32⟩, ⟨"lateral_acc", .f32⟩, ⟨"longitudinal_acc", .f32⟩, ⟨"roll_rate", .f32⟩,
    ⟨"pitch_rate", .f32⟩]
  l1382 := [⟨"v", .f64⟩]
  l813 := [⟨"heave", .f64⟩]
  fbufCap := 68

/-- The configuration TL. -/
def configTL : Config := ⟨paramsTL, by decide⟩

/-- The reset state with TL, in a control state, over a stream, with a cursor. -/
def at_ (f : Fsm) (bs : List Byte) (pos : Nat := 0) : State :=
  { State.reset with cfg := configTL, fsm := f, input := bs, pos := pos }

/-- The same with a turn on the schedule. -/
def next_ (u : Turn) (s : State) : State := s.withHost { s.host with sched := [u] }

/-- The state in MESSAGE with a whole Short frame of id `id` at offset 0. -/
def msg (id : BitVec 16) (payload : List Byte) : State :=
  { at_ .message (Item.expand (.short id payload)) with
    frame := ⟨.short, 0, 12, id, BitVec.ofNat 16 payload.length, 16 + payload.length⟩ }

/-- The state of an outcome. -/
def state? : Host.Outcome State Fault Refusal → Option State
  | .next s => some s
  | .fault _ => none
  | .refused _ => none

/-- One field of the state an instruction gives. -/
def after {α : Type} (i : Instr) (s : State) (f : State → α) : Option α := (state? (exec i s)).map f

/-- A record as characters. -/
def chars (s : State) : List Char := s.tx.obuf.toList.map fun b => Char.ofNat b.toNat

/-- -3.0 as 8 little-endian bytes (95_test_vectors.md, section 1, as the other literals below). -/
def f64m3 : List Byte := [0, 0, 0, 0, 0, 0, 0x08, 0xC0]
/-- 0.0. -/
def f64zero : List Byte := List.replicate 8 0
/-- 5.0. -/
def f64five : List Byte := [0, 0, 0, 0, 0, 0, 0x14, 0x40]
/-- 200.0. -/
def f64twoHundred : List Byte := [0, 0, 0, 0, 0, 0, 0x69, 0x40]
/-- 1.23. -/
def f64heave : List Byte := [0xAE, 0x47, 0xE1, 0x7A, 0x14, 0xAE, 0xF3, 0x3F]
/-- 1964.0. -/
def f64over : List Byte := [0, 0, 0, 0, 0, 0xB0, 0x9E, 0x40]
/-- A NaN. -/
def f64nan : List Byte := [0, 0, 0, 0, 0, 0, 0xF8, 0x7F]

/-- The payload of E6. -/
def payload1465 : List Byte := f64twoHundred ++ f64zero ++ f64zero ++ f64five ++ f64m3
/-- The payload of V-A4: 0.0078125, 0.03125, 0, 0.125, -0.0625 as f32. -/
def payload1708 : List Byte := [0, 0, 0, 0x3C, 0, 0, 0, 0x3D, 0, 0, 0, 0, 0, 0, 0, 0x3E, 0, 0, 0x80, 0xBD]
/-- The payload of P3's second 1708 frame: 0.1 and zeros. -/
def over1708 : List Byte := [0xCD, 0xCC, 0xCC, 0x3D] ++ List.replicate 16 0
/-- The payload of V-M1. -/
def payload1462 : List Byte :=
  [0xFF, 0xFF, 0x34, 0x12, 0x00, 0x80, 0xEF, 0xBE, 0xAD, 0xDE, 0xFF, 0xFF, 0xFF, 0xFF] ++ List.replicate 8 0xFF ++
    [0, 0, 0, 0, 0, 0, 0, 0x80, 0x5A, 0xA5]

/-! ## Well-formedness: what the checks refuse -/

/-- `AA 44 12` is SYNC_LONG's, so the default row may not hold it. -/
theorem test_syncNone_refuses_a_sync_word : (Instr.syncNone 0xAA 0x44 0x12).wf = false := by decide
theorem test_syncNone_refuses_the_text_sync : (Instr.syncNone 0x3C 0x49 0x4E).wf = false := by decide
/-- 1465 is a supported id. -/
theorem test_unsupported_refuses_a_supported_id : (Instr.msgUnsupported 1465).wf = false := by decide
/-- R11 (d): the layout of 813 must hold a numeric `heave`. -/
theorem test_config_without_heave_refused :
    Config.accept { paramsTL with l813 := [⟨"heave", .bytes 8⟩] } = none := by decide
/-- R11 (a): names are distinct. -/
theorem test_config_with_a_repeated_name_refused :
    Config.accept { paramsTL with l508 := [⟨"v", .f64⟩, ⟨"v", .u8⟩] } = none := by decide
/-- R10: `bytes(n)` has `n >= 1`. -/
theorem test_config_with_empty_bytes_refused : Config.accept { paramsTL with l1457 := [⟨"st", .bytes 0⟩] } = none := by decide
/-- R8, R11 (e): the buffer holds a header and the longest layout. -/
theorem test_config_with_a_small_buffer_refused : Config.accept { paramsTL with fbufCap := 67 } = none := by decide
theorem test_config_without_roll_refused :
    Config.accept { paramsTL with l1465 := [⟨"up_vel", .f64⟩, ⟨"north_vel", .f64⟩, ⟨"east_vel", .f64⟩, ⟨"pitch", .f64⟩] } =
      none := by decide
theorem test_config_without_rates_refused : Config.accept { paramsTL with l1708 := [] } = none := by decide
theorem test_configTL_admitted : (Config.accept paramsTL).isSome = true := by decide

/-! ## Decoding: the words of R70 and R80, one per row -/

theorem test_decode_syncLong : decode .sync [0b10101010, 0b01000100, 0b00010010] = .ok (.syncLong, []) := rfl
theorem test_decode_syncShort : decode .sync [0b10101010, 0b01000100, 0b00010011] = .ok (.syncShort, []) := rfl
theorem test_decode_syncInfoText : decode .sync [0b00111100, 0b01001001, 0b01001110] = .ok (.syncInfoText, []) := rfl
theorem test_decode_syncNone : decode .sync [0x3C, 0x49, 0x4F, 0x80] = .ok (.syncNone 0x3C 0x49 0x4F, [0x80]) := rfl
theorem test_decode_msg1462 : decode .msgId [0b10110110, 0b00000101] = .ok (.msg1462, []) := rfl
theorem test_decode_msg1457 : decode .msgId [0b10110001, 0b00000101] = .ok (.msg1457, []) := rfl
theorem test_decode_msg319 : decode .msgId [0b00111111, 0b00000001] = .ok (.msg319, []) := rfl
theorem test_decode_msg1465 : decode .msgId [0b10111001, 0b00000101] = .ok (.msg1465, []) := rfl
theorem test_decode_msg508 : decode .msgId [0b11111100, 0b00000001] = .ok (.msg508, []) := rfl
theorem test_decode_msg1708 : decode .msgId [0b10101100, 0b00000110] = .ok (.msg1708, []) := rfl
theorem test_decode_msg1382 : decode .msgId [0b01100110, 0b00000101] = .ok (.msg1382, []) := rfl
theorem test_decode_msg813 : decode .msgId [0b00101101, 0b00000011] = .ok (.msg813, []) := rfl
/-- 9999 = 0x270F (P1). -/
theorem test_decode_msgUnsupported : decode .msgId [0x0F, 0x27] = .ok (.msgUnsupported 9999, []) := rfl
/-- Two bytes are no window: a wait, V-S5. -/
theorem test_decode_truncated : decode .sync [0xAA, 0x44] = .error .truncatedInput := rfl

/-! ## Numbers -/

/-- The domain ends are the binary64 values nearest the decimal literals: 9.81, -20.48, 20.47, 99.99. -/
theorem test_domain_ends :
    AttReg.horiz.high.toBits = 0x40239EB851EB851F ∧ AttReg.vert.low.toBits = 0xC0347AE147AE147B ∧
      AttReg.vert.high.toBits = 0x40347851EB851EB8 ∧ AttReg.roll.high.toBits = 0x4058FF5C28F5C28F := by decide +kernel
/-- V-M4: the smallest binary32 subnormal is 2^-149, that is 0x36A0000000000000. -/
theorem test_widen_subnormal : (F64.ofF32 1).toBits = 0x36A0000000000000 := by decide +kernel
/-- E3: 9.79 takes the truncation path, 0.05745 is a tie to even; -20.48 gives the least vertical code. -/
theorem test_codes :
    horizCode (.literal false 979 100) = 255 ∧ horizCode (.literal false 5745 100000) = 2 ∧
      vertCode (.literal true 2048 100) = 0x8000 ∧ vertCode (.literal false 2047 100) = 0x7FF0 ∧
      magnitude (.literal false 12345 1000) = 1234 ∧ signChar (.literal true 4 1000) = 0x2D := by decide +kernel

/-! ## Memory -/

theorem test_reset_memory_canonical : Memory.wf State.reset.cells = true := by decide

/-! ## Steps -/

/-- V-S4, last step. -/
theorem test_syncLong_ends_the_run :
    after .syncLong { at_ .waitSync [0xAA, 0x44, 0x14, 0xAA, 0x44, 0x12] 3 with disc := ⟨3, 0⟩ }
      (fun t => (t.events, t.frame.syncOff, t.frame.hl, t.fsm)) = some ([⟨1, 0, 0, 0, 3⟩], 3, 28, .header) := by decide
/-- V-S2. -/
theorem test_syncShort : after .syncShort (at_ .waitSync [0xAA, 0x44, 0x13])
    (fun t => (t.events, t.frame.kind, t.frame.hl, t.pos)) = some ([], .short, 12, 0) := by decide
/-- V-S8. -/
theorem test_syncInfoText : after .syncInfoText { at_ .waitSync [0x3C, 0x3C, 0x49, 0x4E, 0x80] 1 with disc := ⟨1, 0⟩ }
    (fun t => (t.events, t.pos, t.fsm)) = some ([⟨1, 0, 0, 0, 1⟩], 4, .textSkip) := by decide
/-- V-S6, second step. -/
theorem test_syncNone : after (.syncNone 0x22 0x33 0x44) { at_ .waitSync [0x11, 0x22, 0x33, 0x44] 1 with disc := ⟨1, 0⟩ }
    (fun t => (t.disc, t.pos, t.events)) = some (⟨2, 0⟩, 2, []) := by decide
/-- V-H6: a Short header at 5. -/
theorem test_short_header :
    (state? (step { at_ .header (List.replicate 5 0 ++ [0xAA, 0x44, 0x13, 8, 0x2D, 3, 0, 0, 0, 0, 0, 0]) 5 with
      frame := ⟨.short, 5, 12, 0, 0, 0⟩ })).map (fun t => (t.frame.msgId, t.frame.msgLen, t.frame.frameEnd)) =
      some (813, 8, 29) := by decide
/-- V-H1, V-H5: a Long header whose ms bytes are FF. -/
theorem test_long_header :
    (state? (step { at_ .header ([0xAA, 0x44, 0x12, 0x1C, 0x2D, 3, 0, 0, 8, 0, 0, 0, 0, 0, 0, 0, 0xFF, 0xFF, 0xFF, 0xFF] ++
      List.replicate 8 0) with frame := ⟨.long, 0, 28, 0, 0, 0⟩ })).map
        (fun t => (t.frame.msgId, t.frame.frameEnd, t.hdr.long.ms.toInt)) = some (813, 40, -1) := by decide

/-- V-M1: every integer type, and bytes. -/
theorem test_msg1462_fields :
    (msg 1462 payload1462).fieldsOf .m1462 =
      [("a", .int 255), ("b", .int (-1)), ("c", .int 4660), ("d", .int (-32768)), ("e", .int 3735928559), ("f", .int (-1)),
        ("g", .int 18446744073709551615), ("h", .int (-9223372036854775808)), ("st", .raw [0x5A, 0xA5])] := by decide
/-- V-A9. -/
theorem test_msg1462 : after .msg1462 (msg 1462 payload1462) (fun t => (t.fsm, t.pos, String.ofList (chars t))) =
    some (.emit, 48, ":000000  0000F 0000  0000\n") := by decide +kernel
/-- V-M6. -/
theorem test_msg1457_short : after .msg1457 (msg 1457 [0, 0, 0]) (fun t => (t.events, t.pos, t.fsm)) =
    some ([⟨6, 0, 1457, 0, 3⟩], 19, .idle) := by decide +kernel
/-- V-M3: a NaN that no update reads. -/
theorem test_msg319_nan : after .msg319 (msg 319 [0, 0, 0xC0, 0x7F]) (fun t => (t.events, t.fsm)) =
    some ([], .emit) := by decide +kernel
/-- E6. -/
theorem test_msg1465 :
    after .msg1465 { msg 1465 payload1465 with arf := { Attitude.reset with heave := .literal false 123 100 } }
      (fun t => String.ofList (chars t)) = some ":1A0000  0123F 0500 -0300\n" := by decide +kernel
/-- P4: 1964 / 200 = 9.82. -/
theorem test_msg1465_out_of_range : after .msg1465 (msg 1465 (f64over ++ List.replicate 32 0))
    (fun t => (t.events, t.arf.horiz.toBits, t.pos)) = some ([⟨4, 0, 1465, 0, 0⟩], 0, 56) := by decide +kernel
/-- V-M7: trailing payload bytes are ignored. -/
theorem test_msg508_long : after .msg508 (msg 508 (List.replicate 12 0)) (fun t => (t.fsm, t.pos)) =
    some (.emit, 28) := by decide +kernel
/-- V-A4. -/
theorem test_msg1708 : after .msg1708 (msg 1708 payload1708) (fun t => String.ofList (chars t)) =
    some ":291027  0000F 2500 -1250\n" := by decide +kernel
/-- P3. -/
theorem test_msg1708_out_of_range : after .msg1708 (msg 1708 over1708) (fun t => (t.events, t.fsm)) =
    some ([⟨4, 0, 1708, 0, 0⟩], .idle) := by decide +kernel
/-- P5: 1382 does not update heave, and the status character is 'H'. -/
theorem test_msg1382 : after .msg1382 { msg 1382 [0, 0, 0, 0, 0, 0, 0, 0x40] with status := .notAligned }
    (fun t => (t.arf.heave.toBits, String.ofList (chars t))) = some (0, ":000000  0000H 0000  0000\n") := by decide +kernel
/-- P2, first frame: 1.23 is 0x3FF3AE147AE147AE. -/
theorem test_msg813 : after .msg813 (msg 813 f64heave) (fun t => (t.arf.heave.toBits, t.fsm)) =
    some (0x3FF3AE147AE147AE, .emit) := by decide +kernel
/-- V-A7. -/
theorem test_msg813_nan : after .msg813 (msg 813 f64nan) (fun t => (t.events, t.fsm)) =
    some ([⟨4, 2, 813, 0, 0⟩], .idle) := by decide +kernel
/-- E8. -/
theorem test_msgUnsupported : after (.msgUnsupported 9999) (msg 9999 [1, 2]) (fun t => (t.events, t.pos)) =
    some ([⟨3, 0, 9999, 0, 2⟩], 18) := by decide

/-! ## Witnesses: for every statement with hypotheses, a state and operands that meet them together -/

/-- The open Long frame of V-H1 in HEADER, its cursor and latches as the scanner leaves them. -/
def longOpen : State :=
  { at_ .header ([0xAA, 0x44, 0x12, 0x1C, 0x2D, 3, 0, 0, 8] ++ List.replicate 19 0) with frame := ⟨.long, 0, 28, 0, 0, 0⟩ }
/-- The open Short frame of E1 in HEADER. -/
def shortOpen : State :=
  { at_ .header [0xAA, 0x44, 0x13, 8, 0x2D, 3, 0, 0, 0, 0, 0, 0] with frame := ⟨.short, 0, 12, 0, 0, 0⟩ }
/-- The InfoText run of V-H9 at its fourth byte. -/
def textOpen : State :=
  { at_ .textSkip [0x3C, 0x49, 0x4E, 0x41, 0x42, 0x0D, 0x0A, 0xAA] 3 with frame := ⟨.infoText, 0, 0, 0, 0, 0⟩ }
/-- A record in the register, none or some of it delivered. -/
def emitting (n : Nat) : State := { at_ .emit [] with tx := ⟨recordOf .reset .active, n⟩ }
/-- Four bytes and no sync. -/
def searching : State := at_ .waitSync [1, 2, 3, 4]
/-- The 1465 frame of P4 that is out of range. -/
def overFrame : State := msg 1465 (f64over ++ List.replicate 32 0)

theorem witness_ResetGivesEveryResetValue :
    (∀ us ∈ [[], [Turn.rst false], [.block]], ∃ s : State, s.host.sched = us ∧ s.host.rst = true) ∧
    (∃ s : State, s.host.sched.head? = some (.rst true) ∧ s.host.rst = false) ∧
    (∃ (s : State) (b : Byte), s.host.rst = true ∧ s.host.sched.head? = some (.present b)) ∧
    (∀ u ∈ [Turn.block, .recv, .status .notAligned], ∃ s : State, s.host.rst = true ∧ s.host.sched.head? = some u ∧
      ∀ b, s.host.sched.head? ≠ some (.present b)) :=
  ⟨fun us _ => ⟨{ at_ .emit [1] with host := { HostSide.quiet with rst := true, sched := us } }, rfl, rfl⟩,
    ⟨next_ (.rst true) (at_ .emit [1]), rfl, rfl⟩,
    ⟨{ at_ .idle [] with host := { HostSide.quiet with rst := true, sched := [.present 7] } }, 7, rfl, rfl⟩, fun u hu =>
    ⟨{ at_ .idle [] with host := { HostSide.quiet with rst := true, sched := [u] } }, rfl, rfl, by
      intro b; revert u; simp⟩⟩

theorem witness_RecvAppendsTheByte :
    (∃ (s : State) (b : Byte) (bs : List Byte), s.host.sched.head? = some .recv ∧ s.host.rst = false ∧ s.fsm ≠ .stopped ∧
      s.host.inq = b :: bs) ∧
    (∃ (s : State) (b : Byte) (bs : List Byte), (s.host.sched = [] ∧ s.blockEnabled = false) ∧ s.host.rst = false ∧
      s.fsm ≠ .stopped ∧ s.host.inq = b :: bs) :=
  ⟨⟨(at_ .emit []).withHost { HostSide.quiet with inq := [0xAA], sched := [.recv] }, _, _, by decide, by decide, by decide,
      rfl⟩,
    ⟨(at_ .waitSync [0xAA, 0x44]).withHost { HostSide.quiet with inq := [0x12] }, _, _, by decide, by decide, by decide, rfl⟩⟩

theorem witness_StatusWriteSetsStatus :
    ∀ v : Status, ∃ s : State, s.host.sched.head? = some (.status v) ∧ s.host.rst = false :=
  fun v => ⟨next_ (.status v) (at_ .stopped []), rfl, rfl⟩

/-- A host with one turn on the schedule, `rst` asserted or not. -/
def lines (r : Bool) (u : Turn) : HostSide := { HostSide.quiet with rst := r, sched := [u] }

/-- Each clause, with `rst` asserted and not. -/
theorem witness_HostTurnsDriveTheLines (r : Bool) :
    (∃ (s : State) (us : List Turn) (h : HostSide) (v : Byte), s.host.rst = r ∧ s.host.sched = .present v :: us ∧
      h = { s.host with sched := us, inq := s.host.inq ++ [v] }) ∧
    (∃ (s : State) (us : List Turn) (h : HostSide) (v : Bool), s.host.rst = r ∧ s.host.sched = .ready v :: us ∧
      h = { s.host with sched := us, outReady := v }) ∧
    (∃ (s : State) (us : List Turn) (h : HostSide) (v : Bool), s.host.rst = r ∧ s.host.sched = .stop v :: us ∧
      h = { s.host with sched := us, stopReq := v }) ∧
    (∃ (s : State) (us : List Turn) (h : HostSide) (v : Bool), s.host.rst = r ∧ s.host.sched = .srcFail v :: us ∧
      h = { s.host with sched := us, srcFail := v }) ∧
    (∃ (s : State) (us : List Turn) (h : HostSide) (v : Bool), s.host.rst = r ∧ s.host.sched = .sinkFail v :: us ∧
      h = { s.host with sched := us, sinkFail := v }) ∧
    (∀ v : Bool, ∃ (s : State) (us : List Turn) (h : HostSide), s.host.rst = r ∧ s.host.sched = .rst v :: us ∧
      h = { s.host with sched := us, rst := v }) :=
  ⟨⟨(at_ .waitSync []).withHost (lines r (.present 0xAA)), [], _, 0xAA, rfl, rfl, rfl⟩,
    ⟨(at_ .waitSync []).withHost (lines r (.ready false)), [], _, false, rfl, rfl, rfl⟩,
    ⟨(at_ .waitSync []).withHost (lines r (.stop true)), [], _, true, rfl, rfl, rfl⟩,
    ⟨(at_ .waitSync []).withHost (lines r (.srcFail true)), [], _, true, rfl, rfl, rfl⟩,
    ⟨(at_ .waitSync []).withHost (lines r (.sinkFail true)), [], _, true, rfl, rfl, rfl⟩,
    fun v => ⟨(at_ .waitSync []).withHost (lines r (.rst v)), [], _, rfl, rfl, rfl⟩⟩

theorem witness_IdleStepStartsSearching : ∃ s : State, s.host.Quiet ∧ s.BlockTurn ∧ s.fsm = .idle :=
  ⟨at_ .idle [], by unfold HostSide.Quiet State.BlockTurn; decide⟩

theorem witness_StopRequestDropsTheFrame :
    ∀ f ∈ [Fsm.idle, .waitSync, .textSkip, .header, .message], ∃ s : State, s.host.rst = false ∧ s.host.srcFail = false ∧
      s.host.sinkFail = false ∧ s.host.stopReq = true ∧ s.BlockTurn ∧ s.fsm = f := by
  intro f hf
  refine ⟨(at_ f [1]).withHost { HostSide.quiet with stopReq := true, sched := [.block] }, rfl, rfl, rfl, rfl, .inl rfl, rfl⟩

theorem witness_IoFailureStopsTheBlock :
    ∀ p ∈ [(true, false), (false, true), (true, true)], ∃ s : State, s.host.rst = false ∧ s.host.srcFail = p.1 ∧
      s.host.sinkFail = p.2 ∧ (s.host.srcFail = true ∨ s.host.sinkFail = true) ∧ s.fsm ≠ .stopped ∧ s.BlockTurn := by
  intro p hp
  refine ⟨(at_ .emit [1]).withHost { HostSide.quiet with srcFail := p.1, sinkFail := p.2, sched := [.block] }, rfl, rfl, rfl,
    ?_, Fsm.noConfusion, .inl rfl⟩
  revert p
  decide

theorem witness_StoppedIsTerminal :
    ∀ ts ∈ [[Turn.block], [.recv], []], ∃ s : State, s.fsm = .stopped ∧ s.host.rst = false ∧ s.host.sched = ts ∧
      (s.host.sched.head? = some .block ∨ s.host.sched.head? = some .recv ∨ s.host.sched = []) := by
  intro ts hts
  refine ⟨(at_ .stopped [1]).withHost { HostSide.quiet with sched := ts }, rfl, rfl, rfl, ?_⟩
  revert ts
  decide

theorem witness_StoppedIsTerminal_ports :
    (∀ f : Fsm, ∃ s : State, s.fsm = f) ∧ (∃ s : State, s.fsm ≠ .stopped ∧ s.host.rst = false) :=
  ⟨fun f => ⟨at_ f [], rfl⟩, ⟨searching, by decide⟩⟩

theorem witness_MissingBytesAreAWait :
    (∃ s : State, s.host.Quiet ∧ s.host.sched.head? = some .block ∧ s.fsm = .waitSync ∧ s.avail < s.pos + 3) ∧
    (∃ s : State, s.host.Quiet ∧ s.host.sched.head? = some .block ∧ s.fsm = .header ∧
      s.avail < s.frame.syncOff + s.frame.hl) ∧
    (∃ s : State, s.host.Quiet ∧ s.host.sched.head? = some .block ∧ s.fsm = .textSkip ∧ s.avail < s.pos + 1) ∧
    (∃ s : State, s.host.Quiet ∧ s.host.sched.head? = some .block ∧ s.fsm = .message ∧ s.avail < s.frame.frameEnd) :=
  ⟨⟨next_ .block (at_ .waitSync [0xAA, 0x44]), by unfold HostSide.Quiet; decide⟩,
    ⟨next_ .block (longOpen.withInput (longOpen.input.take 27)), by unfold HostSide.Quiet; decide⟩,
    ⟨next_ .block (textOpen.withInput (textOpen.input.take 3)), by unfold HostSide.Quiet; decide⟩,
    ⟨next_ .block ((msg 813 f64heave).withInput ((msg 813 f64heave).input.take 23)), by unfold HostSide.Quiet; decide⟩⟩

theorem witness_EmitDeliversOneByte :
    ∀ n ∈ [0, 24, 25], ∃ (s : State) (b : Byte), s.tx.ocnt = n ∧ s.host.rst = false ∧ s.host.srcFail = false ∧
      s.host.sinkFail = false ∧ s.BlockTurn ∧ s.fsm = .emit ∧ s.host.outReady = true ∧ s.tx.ocnt < 26 ∧
      s.tx.obuf.toList[s.tx.ocnt]? = some b := by
  unfold State.BlockTurn
  simp only [List.mem_cons, List.not_mem_nil, or_false, forall_eq_or_imp, forall_eq]
  exact ⟨⟨emitting 0, 0x3A, by decide +kernel⟩, ⟨emitting 24, 0x30, by decide +kernel⟩,
    ⟨emitting 25, 0x0A, by decide +kernel⟩⟩

/-- A block turn in EMIT with a sink that is not ready, and `stop_req` low and high. -/
theorem witness_EmitDeliversOneByte_wait : ∀ v ∈ [false, true], ∃ s : State, s.host.rst = false ∧ s.host.srcFail = false ∧
    s.host.sinkFail = false ∧ s.host.sched.head? = some .block ∧ s.fsm = .emit ∧ s.host.outReady = false ∧ s.host.stopReq = v :=
  fun v _ => ⟨(emitting 3).withHost { HostSide.quiet with outReady := false, stopReq := v, sched := [.block] },
    rfl, rfl, rfl, rfl, rfl, rfl, rfl⟩

theorem witness_EmitDeliversOneByte_port :
    (∃ s : State, s.fsm = .emit ∧ s.host.rst = false ∧ s.host.srcFail = false ∧ s.host.sinkFail = false) ∧
    (∃ s : State, s.fsm ≠ .emit) ∧ (∃ s : State, s.fsm = .emit ∧ s.host.rst = true) ∧
    (∃ s : State, s.fsm = .emit ∧ s.host.srcFail = true) ∧ (∃ s : State, s.fsm = .emit ∧ s.host.sinkFail = true) :=
  ⟨⟨emitting 0, by decide⟩, ⟨searching, by decide⟩, ⟨(emitting 0).withHost { HostSide.quiet with rst := true }, rfl, rfl⟩,
    ⟨(emitting 0).withHost { HostSide.quiet with srcFail := true }, rfl, rfl⟩,
    ⟨(emitting 0).withHost { HostSide.quiet with sinkFail := true }, rfl, rfl⟩⟩

/-- 20_memory.md R56 with 45_bridge_loop.md R230: a failure in EMIT delivers nothing, and nothing was presented. -/
theorem test_no_byte_presented_with_a_failure :
    ((emitting 3).withHost { HostSide.quiet with sinkFail := true }).outData = none ∧
      ∃ t, step ((emitting 3).withHost { HostSide.quiet with sinkFail := true }) = .next t ∧ t.out = (emitting 3).out :=
  ⟨rfl, _, rfl, rfl⟩

theorem witness_RecordIsDeliveredWhole : ∃ s : State, s.host.Quiet ∧ s.host.sched = [] ∧ s.host.outReady = true ∧
    s.fsm = .emit ∧ s.tx.ocnt = 0 :=
  ⟨emitting 0, by unfold HostSide.Quiet; decide⟩

theorem witness_LongHeaderIsDecoded : ∃ s : State, s.host.Quiet ∧ s.BlockTurn ∧ s.fsm = .header ∧ s.frame.kind = .long ∧
    s.frame.hl = 28 ∧ s.frame.syncOff + 28 ≤ s.avail :=
  ⟨longOpen, by unfold HostSide.Quiet State.BlockTurn; decide⟩

theorem witness_ShortHeaderIsDecoded : ∃ s : State, s.host.Quiet ∧ s.BlockTurn ∧ s.fsm = .header ∧ s.frame.kind = .short ∧
    s.frame.hl = 12 ∧ s.frame.syncOff + 12 ≤ s.avail :=
  ⟨shortOpen, by unfold HostSide.Quiet State.BlockTurn; decide⟩

theorem witness_TextByteIsPassedOrEndsTheRun :
    (∃ (s : State) (b : Byte), s.host.Quiet ∧ s.BlockTurn ∧ s.fsm = .textSkip ∧ s.frame.kind = .infoText ∧
      s.byteAt s.pos = some b ∧ b = 0x7F) ∧
    (∃ (s : State) (b : Byte), s.host.Quiet ∧ s.BlockTurn ∧ s.fsm = .textSkip ∧ s.frame.kind = .infoText ∧
      s.byteAt s.pos = some b ∧ b = 0x80) := by
  unfold HostSide.Quiet State.BlockTurn
  exact ⟨⟨textOpen.withInput [0x3C, 0x49, 0x4E, 0x7F], 0x7F, by decide⟩,
    ⟨textOpen.withInput [0x3C, 0x49, 0x4E, 0x80], 0x80, by decide⟩⟩

theorem witness_InfoTextRunIsMeasured : ∃ (s : State) (ts : List Byte) (b : Byte), s.host.Quiet ∧ s.host.sched = [] ∧
    s.fsm = .textSkip ∧ s.frame.kind = .infoText ∧ s.bytes s.pos (ts.length + 1) = ts ++ [b] ∧ (∀ x ∈ ts, x.toNat < 0x80) ∧
    0x80 ≤ b.toNat :=
  ⟨textOpen, [0x41, 0x42, 0x0D, 0x0A], 0xAA, by unfold HostSide.Quiet; decide⟩

theorem witness_UnknownKindIsFatal : ∃ s : State, s.host.Quiet ∧ s.BlockTurn ∧ s.fsm = .header ∧ s.frame.kind = .unknown ∧
    s.frame.syncOff + s.frame.hl ≤ s.avail :=
  ⟨at_ .header [], by unfold HostSide.Quiet State.BlockTurn; decide⟩

theorem witness_StepRunsTheDecodedInstruction :
    (∃ (s : State) (i : Instr) (rest : List Byte), s.host.Quiet ∧ s.BlockTurn ∧ s.fsm = .waitSync ∧ s.pos + 3 ≤ s.avail ∧
      decode .sync (s.bytes s.pos 3) = .ok (i, rest)) ∧
    (∃ (s : State) (i : Instr) (rest : List Byte), s.host.Quiet ∧ s.BlockTurn ∧ s.fsm = .message ∧
      s.frame.frameEnd ≤ s.avail ∧ decode .msgId (leBytes 2 s.frame.msgId.toNat) = .ok (i, rest)) := by
  unfold HostSide.Quiet State.BlockTurn
  exact ⟨⟨searching, .syncNone 1 2 3, [], by decide, by decide, rfl, by decide, rfl⟩,
    ⟨msg 813 f64heave, .msg813, [], by decide, by decide, rfl, by decide, rfl⟩⟩

theorem witness_SyncLongOpensALongFrame :
    ∀ d ∈ [DiscardRun.mk 0 0, ⟨1, 4⟩], ∃ s : State, s.disc = d ∧ s.fsm = .waitSync ∧ s.pos + 3 ≤ s.avail ∧
      s.bytes s.pos 3 = [0xAA, 0x44, 0x12] :=
  fun d _ => ⟨{ at_ .waitSync [0xAA, 0x44, 0x12] with disc := d }, rfl, rfl, Nat.le_refl 3, rfl⟩

theorem witness_SyncShortOpensAShortFrame :
    ∀ d ∈ [DiscardRun.mk 0 0, ⟨1, 4⟩], ∃ s : State, s.disc = d ∧ s.fsm = .waitSync ∧ s.pos + 3 ≤ s.avail ∧
      s.bytes s.pos 3 = [0xAA, 0x44, 0x13] :=
  fun d _ => ⟨{ at_ .waitSync [0xAA, 0x44, 0x13] with disc := d }, rfl, rfl, Nat.le_refl 3, rfl⟩

theorem witness_SyncInfoTextStartsARun :
    ∀ d ∈ [DiscardRun.mk 0 0, ⟨1, 4⟩], ∃ s : State, s.disc = d ∧ s.fsm = .waitSync ∧ s.pos + 3 ≤ s.avail ∧
      s.bytes s.pos 3 = [0x3C, 0x49, 0x4E] :=
  fun d _ => ⟨{ at_ .waitSync [0x3C, 0x49, 0x4E] with disc := d }, rfl, rfl, Nat.le_refl 3, rfl⟩

theorem witness_SyncNoneDiscardsOneByte :
    ∀ d ∈ [DiscardRun.mk 0 0, ⟨1, 4⟩], ∃ (s : State) (b0 b1 b2 : Byte), s.disc = d ∧ s.fsm = .waitSync ∧
      s.pos + 3 ≤ s.avail ∧ s.bytes s.pos 3 = [b0, b1, b2] ∧
      [b0, b1, b2] ∉ [[(0xAA : Byte), 0x44, 0x12], [0xAA, 0x44, 0x13], [0x3C, 0x49, 0x4E]] :=
  fun d _ => ⟨{ at_ .waitSync [0x3C, 0x49, 0x4F] with disc := d }, 0x3C, 0x49, 0x4F, rfl, rfl, Nat.le_refl 3, rfl,
    by decide⟩

theorem witness_ResyncFindsTheFirstLongSync :
    ∀ g ∈ [[], [(1 : Byte), 2, 3, 4, 5], [0xAA]], ∃ (s : State) (r : List Byte), s.host.Quiet ∧ s.host.sched = [] ∧
      s.fsm = .waitSync ∧ s.pos = 0 ∧ s.disc = ⟨0, 0⟩ ∧ s.input = g ++ [0xAA, 0x44, 0x12] ++ r ∧
      (∀ k < g.length, s.bytes k 3 ∉ syncWords) := by
  intro g hg
  refine ⟨at_ .waitSync (g ++ [0xAA, 0x44, 0x12] ++ [0x1C]), [0x1C], ⟨rfl, rfl, rfl, rfl⟩, rfl, rfl, rfl, rfl, rfl, ?_⟩
  revert g
  decide

theorem witness_PlainMessagesEmitTheCurrentRecord :
    ∀ p ∈ plainRows, ∃ s : State, s.fsm = .message ∧ s.frame.frameEnd ≤ s.avail ∧ s.frame.msgId = p.2.1 ∧
      (s.layout p.2.2).size ≤ s.frame.msgLen.toNat ∧ s.arf.firstViolation = none := by
  intro p hp
  refine ⟨msg p.2.1 (List.replicate 32 0), rfl, ?_, rfl, ?_, ?_⟩ <;> revert p <;> decide +kernel

theorem witness_Msg1465CommitsItsUpdate :
    ∃ (s : State) (up north east roll pitch : F64) (a : Attitude), s.fsm = .message ∧ s.frame.frameEnd ≤ s.avail ∧
      s.frame.msgId = 1465 ∧ (s.layout .m1465).size ≤ s.frame.msgLen.toNat ∧
      up = (s.fieldsOf .m1465).num "up_vel" ∧ north = (s.fieldsOf .m1465).num "north_vel" ∧
      east = (s.fieldsOf .m1465).num "east_vel" ∧ roll = (s.fieldsOf .m1465).num "roll" ∧
      pitch = (s.fieldsOf .m1465).num "pitch" ∧
      a = { horiz := F64.div up (.literal false 200 1)
            vert := F64.div (F64.sqrt (F64.add (F64.mul north north) (F64.mul east east))) (.literal false 200 1)
            heave := s.arf.heave, roll := roll, pitch := pitch } ∧
      a.firstViolation = none :=
  ⟨msg 1465 payload1465, _, _, _, _, _, _, by decide, by decide, by decide, by decide, rfl, rfl, rfl, rfl, rfl, rfl,
    by decide +kernel⟩

theorem witness_Msg1708CommitsItsUpdate :
    ∃ (s : State) (vertical lateral longitudinal rollRate pitchRate : F64) (a : Attitude), s.fsm = .message ∧
      s.frame.frameEnd ≤ s.avail ∧ s.frame.msgId = 1708 ∧ (s.layout .m1708).size ≤ s.frame.msgLen.toNat ∧
      vertical = (s.fieldsOf .m1708).num "vertical_acc" ∧ lateral = (s.fieldsOf .m1708).num "lateral_acc" ∧
      longitudinal = (s.fieldsOf .m1708).num "longitudinal_acc" ∧ rollRate = (s.fieldsOf .m1708).num "roll_rate" ∧
      pitchRate = (s.fieldsOf .m1708).num "pitch_rate" ∧
      a = { horiz := F64.mul vertical (.literal false 200 1)
            vert := F64.mul (F64.sqrt (F64.add (F64.mul lateral lateral) (F64.mul longitudinal longitudinal)))
              (.literal false 200 1)
            heave := s.arf.heave, roll := F64.mul rollRate (.literal false 200 1)
            pitch := F64.mul pitchRate (.literal false 200 1) } ∧
      a.firstViolation = none :=
  ⟨msg 1708 payload1708, _, _, _, _, _, _, by decide, by decide, by decide, by decide, rfl, rfl, rfl, rfl, rfl, rfl,
    by decide +kernel⟩

theorem witness_Msg813CommitsHeave :
    ∃ (s : State) (a : Attitude), s.fsm = .message ∧ s.frame.frameEnd ≤ s.avail ∧ s.frame.msgId = 813 ∧
      (s.layout .m813).size ≤ s.frame.msgLen.toNat ∧ a = { s.arf with heave := (s.fieldsOf .m813).num "heave" } ∧
      a.firstViolation = none :=
  ⟨msg 813 f64heave, _, by decide, by decide, by decide, by decide, rfl, by decide +kernel⟩

theorem witness_UnsupportedIdSkipsTheFrame :
    ∃ (s : State) (id : BitVec 16), s.fsm = .message ∧ s.frame.frameEnd ≤ s.avail ∧ s.frame.msgId = id ∧
      id ∉ [(1462 : BitVec 16), 1457, 319, 1465, 508, 1708, 1382, 813] :=
  ⟨msg 9999 [1, 2], 9999, by decide⟩

theorem witness_ShortPayloadIsALengthMismatch :
    ∀ p ∈ plainRows ++ updatingRows.map (fun q => (q.1, q.2.1, q.2.2.1)), ∃ s : State, s.fsm = .message ∧
      s.frame.frameEnd ≤ s.avail ∧ s.frame.msgId = p.2.1 ∧ s.frame.msgLen.toNat < (s.layout p.2.2).size := by
  intro p hp
  refine ⟨msg p.2.1 [0, 0, 0], rfl, ?_, rfl, ?_⟩ <;> revert p <;> decide

theorem witness_OutOfRangeCandidateAbortsTheFrame :
    (∃ (s : State) (r : AttReg), s.fsm = .message ∧ s.frame.frameEnd ≤ s.avail ∧ s.frame.msgId = 1465 ∧
      (s.layout .m1465).size ≤ s.frame.msgLen.toNat ∧ (upd1465 (s.fieldsOf .m1465) s.arf).firstViolation = some r) ∧
    (∃ (s : State) (r : AttReg), s.fsm = .message ∧ s.frame.frameEnd ≤ s.avail ∧ s.frame.msgId = 1708 ∧
      (s.layout .m1708).size ≤ s.frame.msgLen.toNat ∧ (upd1708 (s.fieldsOf .m1708) s.arf).firstViolation = some r) ∧
    (∃ (s : State) (r : AttReg), s.fsm = .message ∧ s.frame.frameEnd ≤ s.avail ∧ s.frame.msgId = 813 ∧
      (s.layout .m813).size ≤ s.frame.msgLen.toNat ∧ (upd813 (s.fieldsOf .m813) s.arf).firstViolation = some r) :=
  ⟨⟨overFrame, .horiz, by decide, by decide, by decide, by decide, by decide +kernel⟩,
    ⟨msg 1708 over1708, .horiz, by decide, by decide, by decide, by decide, by decide +kernel⟩,
    ⟨msg 813 f64nan, .heave, by decide, by decide, by decide, by decide, by decide +kernel⟩⟩

theorem witness_NanFieldNeverCommits :
    (∀ n ∈ names1465 ++ names1708 ++ ["heave"], ∃ f : FieldRecord, (f.num n).isNan = true) := by
  intro n hn
  refine ⟨[(n, .f64 (.nan false 0))], ?_⟩
  revert n
  decide

theorem witness_CommitIsAllOrNothing :
    (∃ (i : Instr) (s t : State), i.level = .msgId ∧ exec i s = .next t ∧ t.arf ≠ s.arf) ∧
    (∃ (i : Instr) (s t : State), i.level = .msgId ∧ exec i s = .next t ∧ t.events ≠ s.events) :=
  ⟨⟨.msg813, msg 813 f64heave, _, rfl, rfl, by decide +kernel⟩, ⟨.msg1465, overFrame, _, rfl, rfl, by decide +kernel⟩⟩

theorem witness_UpdatesAreSparse :
    (∃ s t : State, exec .msg1465 s = .next t) ∧ (∃ s t : State, exec .msg1708 s = .next t) ∧
      (∃ s t : State, exec .msg813 s = .next t) ∧ (∃ s t : State, exec .msg1382 s = .next t) :=
  ⟨⟨msg 1465 payload1465, _, rfl⟩, ⟨msg 1708 payload1708, _, rfl⟩, ⟨msg 813 f64heave, _, rfl⟩,
    ⟨msg 1382 f64five, _, rfl⟩⟩

theorem witness_ConfiguredNamesAreNumbers :
    (∀ j < 9, ∃ (s : State) (f : Sys2Proof.Field), (s.layout .m1462)[j]? = some f) ∧
    (∀ ty ∈ [FieldType.u8, .i8, .u16, .i16, .u32, .i32, .u64, .i64, .f32, .f64, .bytes 2],
      ∃ (s : State) (a : Nat), a + ty.width ≤ s.avail) := by
  refine ⟨fun j hj => ⟨msg 1462 payload1462, ?_⟩, fun ty hty => ⟨msg 1462 payload1462, 12, ?_⟩⟩
  · exact Option.isSome_iff_exists.mp (by revert j; decide)
  · revert ty; decide

theorem witness_ExecOutsideItsRequireChangesNothing :
    (∃ (i : Instr) (s : State), i.level = .sync ∧ s.fsm ≠ .waitSync) ∧
    (∃ (i : Instr) (s : State), i.level = .sync ∧ s.avail < s.pos + 3) ∧
    (∃ (i : Instr) (s : State), i.level = .sync ∧ s.fsm = .waitSync ∧ s.bytes s.pos 3 ≠ encode i) ∧
    (∃ (i : Instr) (s : State), i.level = .msgId ∧ s.fsm ≠ .message) ∧
    (∃ (i : Instr) (s : State), i.level = .msgId ∧ s.avail < s.frame.frameEnd) ∧
    (∃ (i : Instr) (s : State), i.level = .msgId ∧ s.fsm = .message ∧ s.frame.frameEnd ≤ s.avail ∧
      leBytes 2 s.frame.msgId.toNat ≠ encode i) ∧
    (∃ (i : Instr) (s : State), i.wf = false ∧ s.fsm = .waitSync ∧ s.bytes s.pos 3 = encode i) ∧
    (∃ (i : Instr) (s : State), i.wf = false ∧ s.fsm = .message ∧ leBytes 2 s.frame.msgId.toNat = encode i) :=
  ⟨⟨.syncLong, textOpen, by decide⟩, ⟨.syncLong, at_ .waitSync [0xAA, 0x44], by decide⟩,
    ⟨.syncLong, searching, by decide⟩, ⟨.msg813, searching, by decide⟩,
    ⟨.msg813, (msg 813 f64heave).withInput [], by decide⟩, ⟨.msg1465, msg 813 f64heave, by decide⟩,
    ⟨.syncNone 0xAA 0x44 0x12, at_ .waitSync [0xAA, 0x44, 0x12], by decide⟩,
    ⟨.msgUnsupported 813, msg 813 f64heave, by decide⟩⟩

theorem witness_HorizontalCodeIsAByte :
    (∃ h : F64, AttReg.horiz.inDomain h = true ∧ h.lt (.literal false 9771 1000) = true ∧ h = .fin true 0 0) ∧
    (∃ h : F64, AttReg.horiz.inDomain h = true ∧ h.lt (.literal false 9771 1000) = false ∧ h = .literal false 9771 1000) ∧
    (∃ h : F64, AttReg.horiz.inDomain h = true ∧ h.lt (.literal false 9771 1000) = false ∧ h = .literal false 981 100) :=
  ⟨⟨_, by decide +kernel, by decide +kernel, rfl⟩, ⟨_, by decide +kernel, by decide +kernel, rfl⟩,
    ⟨_, by decide +kernel, by decide +kernel, rfl⟩⟩

theorem witness_VerticalCodeFitsSixteenBits :
    ∀ v ∈ [F64.literal true 2048 100, .zero, .literal false 2047 100], AttReg.vert.inDomain v = true := by decide +kernel

theorem witness_MagnitudeHasFourDigits :
    ∀ x ∈ [F64.literal true 9999 100, .fin true 0 0, .literal false 9999 100], AttReg.heave.inDomain x = true := by
  decide +kernel

theorem witness_RecordSpellsItsCodes :
    ∃ (a : Attitude) (st : Status) (r : Vector Byte 26), a.firstViolation = none ∧ r = recordOf a st :=
  ⟨⟨.literal false 25 10, .literal true 1 1, .literal true 4 1000, .literal false 15 1000, .literal true 12345 1000⟩,
    .notAligned, _, by decide +kernel, rfl⟩

theorem witness_CodesRoundTrip :
    (∃ a : Attitude, a.firstViolation = none ∧ a.horiz.lt (.literal false 9771 1000) = true) ∧
    (∃ a : Attitude, a.firstViolation = none ∧ a.horiz.lt (.literal false 9771 1000) = false) :=
  ⟨⟨.reset, by decide +kernel, by decide +kernel⟩,
    ⟨{ Attitude.reset with horiz := .literal false 9771 1000 }, by decide +kernel, by decide +kernel⟩⟩

theorem witness_RecordCharacterSet :
    ∃ (a : Attitude) (st : Status) (r : List Byte), r = (recordOf a st).toList := ⟨.reset, .active, _, rfl⟩

theorem witness_WideningIsExact :
    ∀ q ∈ [((0 : Nat), (1 : Nat)), (1, 0), (254, 2 ^ 23 - 1), (255, 0), (255, 2 ^ 22)], ∃ (u : BitVec 32) (e f : Nat),
      e = u.toNat / 2 ^ 23 % 256 ∧ f = u.toNat % 2 ^ 23 ∧ e = q.1 ∧ f = q.2 := by
  intro q hq
  refine ⟨BitVec.ofNat 32 (q.1 * 2 ^ 23 + q.2), _, _, rfl, rfl, ?_⟩
  revert q
  decide

theorem witness_SmallIntegersConvertExactly : ∀ v ∈ [(0 : Int), 2 ^ 53, -(2 ^ 53)], v.natAbs ≤ 2 ^ 53 := by decide

/-- Zero, the greatest subnormal, the least normal, the greatest finite value, an infinity and two NaNs, of both signs. -/
theorem witness_BitPatternsAreValues :
    (∀ n ∈ [0, 0x000FFFFFFFFFFFFF, 0x0010000000000000, 0xFFEFFFFFFFFFFFFF], (BitVec.ofNat 64 n).toNat / 2 ^ 52 % 2048 < 2047) ∧
    (∀ n ∈ [0x7FF0000000000000, 0xFFF0000000000000],
      (BitVec.ofNat 64 n).toNat / 2 ^ 52 % 2048 = 2047 ∧ (BitVec.ofNat 64 n).toNat % 2 ^ 52 = 0) ∧
    (∀ n ∈ [0x7FF0000000000001, 0xFFFFFFFFFFFFFFFF],
      (BitVec.ofNat 64 n).toNat / 2 ^ 52 % 2048 = 2047 ∧ (BitVec.ofNat 64 n).toNat % 2 ^ 52 ≠ 0) := by
  decide +kernel

theorem witness_RoundingIsNearestEven :
    (∃ (sgn : Bool) (n d : Nat) (x : F64), 0 < d ∧ x = F64.roundUnits sgn n d ∧ x.isFinite = true) ∧
    (∃ (n d : Nat) (x y : F64), 0 < d ∧ x = F64.roundUnits false n d ∧ x.isFinite = true ∧ y.isFinite = true ∧
      ((x.units : Int) * d - n).natAbs = ((y.units : Int) * d - n).natAbs ∧ y.units ≠ x.units) ∧
    (∃ n d : Nat, 0 < d ∧ n = d * ((2 ^ 54 - 1) * 2 ^ 2044) ∧ F64.roundUnits true n d = .inf true) ∧
    (∃ x y : F64, x.isFinite = true ∧ y.isFinite = true ∧ x.toInt1074 + y.toInt1074 ≠ 0 ∧
      x.toInt1074 - y.toInt1074 ≠ 0 ∧ y.units ≠ 0) ∧
    (∃ x y : F64, x.isFinite = true ∧ y.isFinite = true ∧ x.toInt1074 + y.toInt1074 = 0) ∧
    (∃ x y : F64, x.isFinite = true ∧ y.isFinite = true ∧ x.toInt1074 - y.toInt1074 = 0) ∧
    (∃ x y : F64, x.isNan = true ∧ y.isNan = false) ∧ (∃ x y : F64, x.isNan = false ∧ y.isNan = true) ∧
    (∃ x y : F64, x.isFinite = true ∧ y.isFinite = true ∧ y.units = 0 ∧ x.units ≠ 0) ∧
    (∃ x y : F64, x.isFinite = true ∧ y.isFinite = true ∧ y.units = 0 ∧ x.units = 0) ∧
    (∃ x : F64, x.isFinite = true ∧ 2 * (x.rte * 2 ^ 1074 - x.toInt1074).natAbs = 2 ^ 1074) :=
  ⟨⟨true, 5, 3, _, by decide, rfl, by decide +kernel⟩,
    ⟨3, 2, _, .fin false 0 1, by decide, rfl, by decide +kernel, rfl, by decide +kernel, by decide +kernel⟩,
    ⟨_, 3, by decide, rfl, by decide +kernel⟩,
    ⟨.literal true 5 2, .literal false 1 10, by decide +kernel⟩,
    ⟨.literal true 5 2, .literal false 5 2, by decide +kernel⟩,
    ⟨.fin true 0 0, .fin false 0 0, by decide +kernel⟩,
    ⟨.nan false 0, .fin false 0 0, by decide⟩, ⟨.inf true, .nan true 7, by decide⟩,
    ⟨.fin true 0 1, .fin true 0 0, by decide⟩, ⟨.fin false 0 0, .fin true 0 0, by decide⟩,
    ⟨.literal true 5 2, by decide +kernel⟩⟩

/-- 00_scope.md R16 by hand: `1 + 2^-53` is a tie and keeps 1, `1 + 3 * 2^-53` is a tie and goes up to the even `1 + 2^-51`. -/
theorem test_add_ties_to_even :
    (F64.add (.ofBits 0x3FF0000000000000) (.ofBits 0x3CA0000000000000)).toBits = 0x3FF0000000000000 ∧
      (F64.add (.ofBits 0x3FF0000000000001) (.ofBits 0x3CA0000000000000)).toBits = 0x3FF0000000000002 := by decide +kernel

theorem witness_SquareRootIsNearest :
    (∀ x ∈ [F64.fin false 0 1, .literal false 2 1, .fin false 2046 (BitVec.ofNat 52 (2 ^ 52 - 1))],
      x.isFinite = true ∧ x.sign = false ∧ 0 < x.units) ∧
    (∀ q ∈ [(F64.literal false 4 1, F64.literal false 1 1), (.literal false 4 1, .literal false 3 1)], ∃ r : F64,
      r = F64.sqrt q.1 ∧ q.2.isFinite = true ∧ q.2.units ≠ r.units) ∧
    (∃ x : F64, x.isNan = true) ∧ (∃ x : F64, x.sign = true ∧ x.units ≠ 0) := by
  refine ⟨by decide +kernel, fun q hq => ⟨_, rfl, ?_⟩, ⟨.nan true 3, rfl⟩, .fin true 0 1, by decide⟩
  revert q
  decide +kernel

/-- A state of the invariant in WAIT_SYNC with an open discard run. -/
def searchingOn : State := { at_ .waitSync [1, 2, 3, 4] 1 with disc := ⟨1, 0⟩ }

theorem searchingOn_inv : searchingOn.Inv where
  arfInDomain := by intro r; cases r <;> decide +kernel
  posLe := by decide
  ocntLe := by decide
  emitting := by decide
  opened := by rintro (h | h) <;> cases h
  decoded := by intro h; cases h
  text := by intro h; cases h
  discOpen := by decide
  discRun := by decide
  held := by intro h; cases h

/-- A state of the invariant in HEADER. -/
theorem longOpen_inv : longOpen.Inv where
  arfInDomain := by intro r; cases r <;> decide +kernel
  posLe := by decide
  ocntLe := by decide
  emitting := by decide
  opened := fun _ => ⟨rfl, by decide, .inl ⟨rfl, rfl, by decide⟩⟩
  decoded := by intro h; cases h
  text := by intro h; cases h
  discOpen := by intro h; cases h
  discRun := by intro h; cases h
  held := by intro h; cases h

theorem witness_EveryStepKeepsTheInvariant :
    (∃ s t : State, s.Inv ∧ step s = .next t ∧ t.fsm = .message) ∧ (∃ s t : State, s.Inv ∧ step s = .next t ∧ t.pos = 2) :=
  ⟨⟨longOpen, _, longOpen_inv, rfl, by decide⟩, ⟨searchingOn, _, searchingOn_inv, rfl, by decide⟩⟩

theorem witness_UnknownKindIsNeverRaised : ∃ s t : State, s.Inv ∧ step s = .next t ∧ t.fsm = .message :=
  ⟨longOpen, _, longOpen_inv, rfl, by decide⟩

theorem witness_CursorNeverDecreases :
    ∃ s t : State, s.Inv ∧ s.host.rst = false ∧ step s = .next t ∧ t.host.rst = false ∧ s.pos < t.pos :=
  ⟨searchingOn, _, searchingOn_inv, rfl, rfl, rfl, by decide⟩

theorem witness_AcceptingAByteCommutesWithTheBlock :
    ∃ s t : State, s.Inv ∧ s.host.Quiet ∧ s.blockEnabled = true ∧ blockStep s = .next t ∧ t ≠ s :=
  ⟨searchingOn, _, searchingOn_inv, ⟨rfl, rfl, rfl, rfl⟩, by decide, rfl, by decide +kernel⟩

theorem witness_BlockStepsKeepTheHostsState : ∃ s t : State, blockStep s = .next t ∧ t.pos ≠ s.pos :=
  ⟨searchingOn, _, rfl, by decide⟩

theorem witness_AcceptedBytesNeverChange :
    (∃ s t : State, step s = .next t ∧ s.host.rst = false ∧ t.host.rst = false ∧ t.input ≠ s.input ∧ 0 < s.avail) ∧
    (∃ s t : State, step s = .next t ∧ t.input ≠ s.input ∧ t.host.rst = true) ∧
    (∃ s t : State, step s = .next t ∧ t.host.inq ≠ s.host.inq ∧ t.input = s.input) :=
  ⟨⟨next_ .recv ((at_ .waitSync [0xAA]).withHost { HostSide.quiet with inq := [0x44] }), _, rfl, rfl, rfl,
      by decide, by decide⟩, ⟨next_ (.rst true) searching, _, rfl, by decide⟩,
    ⟨next_ (.present 5) searching, _, rfl, by decide⟩⟩

theorem witness_OutputAndEventsOnlyGrow :
    (∃ s t : State, step s = .next t ∧ t.out ≠ s.out) ∧ (∃ s t : State, step s = .next t ∧ t.events ≠ s.events) ∧
    (∃ s t : State, step s = .next t ∧ t.host.rst = true ∧ s.events ≠ []) :=
  ⟨⟨emitting 0, _, rfl, by decide +kernel⟩, ⟨overFrame, _, rfl, by decide +kernel⟩,
    ⟨next_ (.rst true) (searching.withEvents [.ioFailure 3 true false]), _, rfl, rfl, by decide⟩⟩

theorem witness_OnlyTheHostWritesStatus :
    (∃ s t : State, step s = .next t ∧ t.status ≠ s.status) ∧
    (∃ s t : State, step s = .next t ∧ t.status = s.status ∧ t.pos ≠ s.pos) :=
  ⟨⟨next_ (.status .notAligned) searching, _, rfl, by decide⟩, ⟨searching, _, rfl, by decide⟩⟩

theorem witness_OnlyCommitsWriteTheAttitude :
    (∃ s t : State, step s = .next t ∧ t.arf ≠ s.arf ∧ t.fsm = .emit) ∧
    (∃ s t : State, step s = .next t ∧ t.arf ≠ s.arf ∧ t.host.rst = true) :=
  ⟨⟨msg 813 f64heave, _, rfl, by decide +kernel⟩,
    ⟨next_ (.rst true) { searching with arf := { Attitude.reset with roll := .literal false 5 1 } }, _, rfl,
      by decide +kernel⟩⟩

end Sys2Proof.Machine.Tests
end

section
/-! ## PROOFS. The field unpacker: what a decoded record holds, and what its types make of the bytes -/

namespace Sys2Proof

/-- A layout of a well-formed configuration names each field once (00_scope.md R11 (a)). -/
theorem Config.layout_names_nodup (c : Config) (k : MsgKind) : ((c.val.layout k).map Field.name).Nodup := by
  have hwf := c.property
  have hmem : c.val.layout k ∈ c.val.layouts := by cases k <;> simp [Params.layout, Params.layouts]
  simp only [Params.wf, Bool.and_eq_true, List.all_eq_true, decide_eq_true_eq] at hwf
  obtain ⟨⟨⟨⟨hlayouts, -⟩, -⟩, -⟩, -⟩ := hwf
  obtain ⟨hnodup, -⟩ := hlayouts _ hmem
  exact hnodup

/-- The names the updates read are numeric fields of their layouts (00_scope.md R11 (b), (c), (d)). -/
theorem Config.names_hasNumeric (c : Config) :
    (∀ n ∈ names1465, (c.val.layout .m1465).hasNumeric n = true) ∧
      (∀ n ∈ names1708, (c.val.layout .m1708).hasNumeric n = true) ∧
      (c.val.layout .m813).hasNumeric "heave" = true := by
  have hwf := c.property
  simp only [Params.wf, Bool.and_eq_true, List.all_eq_true] at hwf
  obtain ⟨⟨⟨⟨-, h1465⟩, h1708⟩, h813⟩, -⟩ := hwf
  exact ⟨h1465, h1708, h813 "heave" (List.mem_singleton.mpr rfl)⟩

theorem Layout.hasNumeric_iff (l : Layout) (name : String) :
    l.hasNumeric name = true ↔ ∃ f ∈ l, f.name = name ∧ f.type.isNumeric = true := by
  simp [Layout.hasNumeric]

/-- In an association list without repeated keys every entry is what its key finds. -/
theorem lookup_eq_some_of_mem {α β : Type} [BEq α] [LawfulBEq α] {l : List (α × β)} {k : α} {v : β}
    (hl : (l.map Prod.fst).Nodup) (h : (k, v) ∈ l) : l.lookup k = some v := by
  obtain ⟨l₁, l₂, rfl⟩ := List.append_of_mem h
  refine List.lookup_eq_some_iff.mpr ⟨l₁, l₂, rfl, fun p hp => ?_⟩
  rw [List.map_append, List.nodup_append] at hl
  obtain ⟨-, -, hdisj⟩ := hl
  have hne := hdisj p.1 (List.mem_map_of_mem hp) k (by simp)
  simpa using hne.symm

theorem leNat_lt (bs : List Byte) : leNat bs < 256 ^ bs.length := by
  induction bs with
  | nil => simp [leNat]
  | cons b bs ih =>
    have := b.isLt
    rw [leNat, List.length_cons, Nat.pow_succ]
    omega

end Sys2Proof

namespace Sys2Proof.Machine

/-- The signed reading of a bit vector is the two's complement of its pattern. -/
theorem toInt_ofNat_eq_signedOf {w u : Nat} (hw : 0 < w) (hu : u < 2 ^ w) :
    (BitVec.ofNat w u).toInt = signedOf w u := by
  have e : 2 ^ w = 2 * 2 ^ (w - 1) := by rw [← Nat.pow_succ', Nat.succ_eq_add_one, Nat.sub_add_cancel hw]
  rw [BitVec.toInt_eq_toNat_cond, BitVec.toNat_ofNat, Nat.mod_eq_of_lt hu, signedOf]
  by_cases h : u < 2 ^ (w - 1)
  · rw [if_pos h, if_pos (by omega)]
  · rw [if_neg h, if_neg (by omega)]
    push_cast
    rfl

/-- The bytes of an accepted range have the sum of 00_scope.md R14, which fits their width. -/
theorem State.leNat_bytes {s : State} {a n : Nat} (h : a + n ≤ s.avail) :
    leNat (s.bytes a n) = s.sumAt a n ∧ s.sumAt a n < 256 ^ n := by
  have e : leNat (s.bytes a n) = s.sumAt a n := State.memRead_eq_sumAt h
  have hlt := leNat_lt (s.bytes a n)
  rw [State.bytes_length h, e] at hlt
  exact ⟨e, hlt⟩

theorem State.bytes_getElem? (s : State) (a : Nat) {n i : Nat} (h : i < n) :
    (s.bytes a n)[i]? = s.byteAt (a + i) := by
  simp [State.bytes, State.byteAt, h]

/-- A field of an unsigned integer type is the little-endian sum of its bytes, of a signed type the two's complement of that
sum, of a floating type the value of that pattern, of type bytes(n) the n bytes themselves (30_encoding.md R77). -/
theorem decodeField_bytes {s : State} {a : Nat} (ty : FieldType) (h : a + ty.width ≤ s.avail) :
    decodeField ty (s.bytes a ty.width) =
      match ty with
      | .u8 => .int (s.sumAt a 1)
      | .i8 => .int (signedOf 8 (s.sumAt a 1))
      | .u16 => .int (s.sumAt a 2)
      | .i16 => .int (signedOf 16 (s.sumAt a 2))
      | .u32 => .int (s.sumAt a 4)
      | .i32 => .int (signedOf 32 (s.sumAt a 4))
      | .u64 => .int (s.sumAt a 8)
      | .i64 => .int (signedOf 64 (s.sumAt a 8))
      | .f32 => .f32 (BitVec.ofNat 32 (s.sumAt a 4))
      | .f64 => .f64 (.ofBits (BitVec.ofNat 64 (s.sumAt a 8)))
      | .bytes n => .raw (s.bytes a n) := by
  obtain ⟨hsum, hlt⟩ := State.leNat_bytes h
  cases ty with
  | bytes n => rfl
  | u8 | u16 | u32 | u64 | f32 | f64 =>
    simp only [FieldType.width] at hsum ⊢
    simp only [decodeField, hsum]
  | i8 | i16 | i32 | i64 =>
    simp only [FieldType.width] at hsum hlt ⊢
    simp only [decodeField, hsum]
    rw [toInt_ofNat_eq_signedOf (by decide) hlt]

/-- Exactly the values of numeric types have a number (42_message_decoder.md R143). -/
theorem decodeField_num_isSome {ty : FieldType} (h : ty.isNumeric = true) (bs : List Byte) :
    (decodeField ty bs).num.isSome = true := by
  cases ty with
  | bytes n => simp [FieldType.isNumeric] at h
  | _ => rfl

/-- The value of the field at index `j` of a layout unpacked from `base` (30_encoding.md R76). -/
def State.fieldAt (s : State) (l : Layout) (base j : Nat) (f : Field) : Value :=
  decodeField f.type (s.bytes (base + ((l.take j).map fun g => g.type.width).sum) f.type.width)

theorem State.unpack_field {s : State} {l : Layout} {j : Nat} {f : Field} (base : Nat) (h : l[j]? = some f) :
    (s.unpack l base)[j]? = some (f.name, s.fieldAt l base j f) := by
  rw [State.unpack_getElem?, h]
  rfl

/-- Where no name is repeated, a field's name finds its number. -/
theorem State.unpack_num? {s : State} {l : Layout} {j : Nat} {f : Field} (base : Nat) (hl : (l.map Field.name).Nodup)
    (h : l[j]? = some f) : (s.unpack l base).num? f.name = (s.fieldAt l base j f).num := by
  have hnames : ((s.unpack l base).map Prod.fst).Nodup := by rwa [State.unpack_names]
  have hmem := List.mem_of_getElem? (State.unpack_field (s := s) base h)
  rw [FieldRecord.num?, lookup_eq_some_of_mem hnames hmem]
  rfl

theorem State.unpack_length (s : State) (l : Layout) (base : Nat) : (s.unpack l base).length = l.length := by
  simpa using congrArg List.length (State.unpack_names s l base)

/-- A numeric field of a layout without repeated names is found as a number wherever the payload stands. -/
theorem State.unpack_num?_isSome (s : State) {l : Layout} {name : String} (base : Nat) (hl : (l.map Field.name).Nodup)
    (h : l.hasNumeric name = true) : ((s.unpack l base).num? name).isSome = true := by
  obtain ⟨f, hf, rfl, hnum⟩ := (Layout.hasNumeric_iff l name).mp h
  obtain ⟨j, hj⟩ := List.mem_iff_getElem?.mp hf
  rw [State.unpack_num? base hl hj]
  exact decodeField_num_isSome hnum _

/-- Settles O34: the entries by `State.unpack_field` and `State.unpack_num?`, their values by `decodeField_bytes`, and the
updates' names by the well-formedness every configuration carries. -/
theorem configuredNamesAreNumbers : Obligations.ConfiguredNamesAreNumbers := by
  unfold Obligations.ConfiguredNamesAreNumbers
  have hnodup (s : State) (k : MsgKind) : ((s.layout k).map Field.name).Nodup := Config.layout_names_nodup s.cfg k
  refine ⟨fun s k => ⟨State.unpack_length s _ _, fun j f hf => ?_⟩, fun s a ty h => ?_,
    fun v u x bs => ⟨rfl, rfl, rfl, rfl⟩, fun s base => ?_⟩
  · exact ⟨s.fieldAt (s.layout k) (s.frame.syncOff + s.frame.hl) j f, rfl, State.unpack_field _ hf,
      State.unpack_num? _ (hnodup s k) hf⟩
  · have hdec := decodeField_bytes ty h
    have hraw : ∀ n, ty = .bytes n → ∃ bs, decodeField ty (s.bytes a ty.width) = .raw bs ∧ bs.length = n ∧
        ∀ i < n, bs[i]? = s.byteAt (a + i) := by
      rintro n rfl
      exact ⟨s.bytes a n, hdec, State.bytes_length h, fun i hi => State.bytes_getElem? s a hi⟩
    refine ⟨?_, ?_, ?_, ?_, ?_, ?_, ?_, ?_, ?_, ?_, hraw⟩ <;> (rintro rfl; exact hdec)
  · obtain ⟨h1465, h1708, h813⟩ := Config.names_hasNumeric s.cfg
    exact ⟨fun n hn => State.unpack_num?_isSome s base (hnodup s _) (h1465 n hn),
      fun n hn => State.unpack_num?_isSome s base (hnodup s _) (h1708 n hn),
      State.unpack_num?_isSome s base (hnodup s _) h813⟩

end Sys2Proof.Machine
end

section
/-! ## PROOFS. Rounding to nearest with ties to even: one step of it on whole numbers, and what `roundUnits` makes of it -/

namespace Sys2Proof

/-- `q` is a whole number nearest the quotient `n / d`, and the even one where two are as near (00_scope.md R16). -/
structure IsNearestEven (n d q : Nat) : Prop where
  /-- The quotient is at most a half above `q`. -/
  le_half_above : 2 * n ≤ (2 * q + 1) * d
  /-- The quotient is at most a half below `q`. -/
  le_half_below : 2 * q * d ≤ 2 * n + d
  /-- At a tie `q` is even. -/
  even_at_tie : 2 * n = (2 * q + 1) * d ∨ 2 * q * d = 2 * n + d → q % 2 = 0

/-- The rounding step of the model: the quotient, one more where the remainder says so. -/
def nearestEven (n d : Nat) : Nat :=
  n / d + if decide (d < 2 * (n % d)) || (decide (2 * (n % d) = d) && decide (n / d % 2 = 1)) then 1 else 0

theorem nearestEven_spec (n : Nat) {d : Nat} (hd : 0 < d) : IsNearestEven n d (nearestEven n d) := by
  have hdm : n / d * d + n % d = n := Nat.div_add_mod' n d
  have hr : n % d < d := Nat.mod_lt n hd
  unfold nearestEven
  generalize n / d = q at *
  generalize n % d = r at *
  have e1 : (2 * q + 1) * d = 2 * (q * d) + d := by ring
  have e2 : (2 * (q + 1) + 1) * d = 2 * (q * d) + 3 * d := by ring
  have e3 : 2 * (q + 1) * d = 2 * (q * d) + 2 * d := by ring
  have e4 : 2 * q * d = 2 * (q * d) := by ring
  split
  case isTrue hup =>
    simp only [Bool.or_eq_true, Bool.and_eq_true, decide_eq_true_eq] at hup
    exact ⟨by rw [e2]; omega, by rw [e3]; omega, by rw [e2, e3]; omega⟩
  case isFalse hup =>
    simp only [Bool.or_eq_true, Bool.and_eq_true, decide_eq_true_eq, not_or, not_and] at hup
    rw [Nat.add_zero]
    exact ⟨by rw [e1]; omega, by rw [e4]; omega, by rw [e1, e4]; omega⟩

/-- `rte` of a magnitude is the same rounding step, at the quantum 1.0. -/
theorem rteUnits_eq_nearestEven (n : Nat) : rteUnits n = nearestEven n F64.one1074 := by
  simp only [rteUnits, nearestEven, Bool.or_eq_true, Bool.and_eq_true, decide_eq_true_eq]
  split <;> rfl

/-- The distance of `q` from the quotient, times twice the denominator, is at most the denominator. -/
theorem IsNearestEven.two_mul_natAbs_le {n d q : Nat} (h : IsNearestEven n d q) : 2 * ((q : Int) * d - n).natAbs ≤ d := by
  have h1 : (2 : Int) * n ≤ (2 * q + 1) * d := by exact_mod_cast h.le_half_above
  have h2 : (2 : Int) * q * d ≤ 2 * n + d := by exact_mod_cast h.le_half_below
  have e1 : (2 * q + 1 : Int) * d = 2 * (q * d) + d := by ring
  have e2 : (2 : Int) * q * d = 2 * (q * d) := by ring
  omega

theorem IsNearestEven.even_of_natAbs_eq {n d q : Nat} (h : IsNearestEven n d q)
    (htie : 2 * ((q : Int) * d - n).natAbs = d) : q % 2 = 0 := by
  have e1 : (((2 * q + 1) * d : Nat) : Int) = 2 * (q * d) + d := by push_cast; ring
  have e2 : ((2 * q * d : Nat) : Int) = 2 * (q * d) := by push_cast; ring
  exact h.even_at_tie (by omega)

/-- Another whole number is at least a whole denominator away from `q`. -/
theorem le_natAbs_sub_mul {q k : Nat} (d : Nat) (hk : k ≠ q) : d ≤ ((k : Int) * d - q * d).natAbs := by
  rw [← Int.sub_mul, Int.natAbs_mul, Int.natAbs_natCast]
  exact Nat.le_mul_of_pos_left d (by omega)

/-- No whole number is nearer to the quotient, and one that is as near makes a tie. -/
theorem IsNearestEven.nearest {n d q : Nat} (h : IsNearestEven n d q) (k : Nat) :
    ((q : Int) * d - n).natAbs ≤ ((k : Int) * d - n).natAbs ∧
      (((q : Int) * d - n).natAbs = ((k : Int) * d - n).natAbs → k ≠ q → q % 2 = 0) := by
  have hq := h.two_mul_natAbs_le
  by_cases hk : k = q
  · subst hk
    exact ⟨Nat.le_refl _, fun _ hne => absurd rfl hne⟩
  · have hfar := le_natAbs_sub_mul d hk
    exact ⟨by omega, fun heq _ => h.even_of_natAbs_eq (by omega)⟩

/-- The fraction `q` under exponent offset `j`, that is `q * 2^j` units, is the rounding of `n / d` units: `q` is nearest at the
quantum `2^j`, has at most 53 bits or is the power of two after them, and where the quantum is not the least one the quotient
has no fewer than 53 bits. -/
structure IsRoundedAt (n d j q : Nat) : Prop where
  nearest : IsNearestEven n (d * 2 ^ j) q
  le_two_pow : q ≤ 2 ^ 53
  normal : j = 0 ∨ 2 ^ 52 * (d * 2 ^ j) ≤ n

/-- The exponent offset `roundUnits` takes leaves the whole part of a quotient at most 53 bits, and 53 where it is not 0. -/
theorem log2_sub_quantum (m : Nat) :
    m < 2 ^ 53 * 2 ^ (Nat.log2 m - 52) ∧ (Nat.log2 m - 52 = 0 ∨ 2 ^ 52 * 2 ^ (Nat.log2 m - 52) ≤ m) := by
  have hhi : m < 2 ^ (Nat.log2 m + 1) := Nat.lt_log2_self
  rcases Nat.lt_or_ge (Nat.log2 m) 52 with hl | hl
  · have := Nat.pow_le_pow_right (n := 2) (by decide) (show Nat.log2 m + 1 ≤ 53 by omega)
    rw [Nat.sub_eq_zero_of_le (Nat.le_of_lt hl)]
    exact ⟨by omega, .inl rfl⟩
  · have hlo : 2 ^ Nat.log2 m ≤ m := Nat.log2_self_le (by rintro rfl; simp at hl)
    rw [← Nat.pow_add, ← Nat.pow_add, show 53 + (Nat.log2 m - 52) = Nat.log2 m + 1 by omega,
      show 52 + (Nat.log2 m - 52) = Nat.log2 m by omega]
    exact ⟨hhi, .inr hlo⟩

theorem F64.roundUnits_eq_nearestEven (s : Bool) (n d : Nat) :
    F64.roundUnits s n d = F64.ofMagnitude s
      ((Nat.log2 (n / d) - 52) * 2 ^ 52 + nearestEven n (d * 2 ^ (Nat.log2 (n / d) - 52))) := by
  simp only [F64.roundUnits, nearestEven, Nat.add_assoc]

/-- What `roundUnits` answers. `F64.roundUnits_cases` bounds the fraction; here the quotient is bounded as well, without which
the values under the next lower exponent could be nearer. -/
theorem F64.roundUnits_isRoundedAt (s : Bool) (n : Nat) {d : Nat} (hd : 0 < d) :
    ∃ j q : Nat, F64.roundUnits s n d = F64.ofMagnitude s (j * 2 ^ 52 + q) ∧ IsRoundedAt n d j q := by
  obtain ⟨hhi, hlo⟩ := log2_sub_quantum (n / d)
  refine ⟨_, _, F64.roundUnits_eq_nearestEven s n d, ?_⟩
  generalize Nat.log2 (n / d) - 52 = j at *
  have hden : 0 < d * 2 ^ j := Nat.mul_pos hd (Nat.two_pow_pos j)
  have hnear := nearestEven_spec n hden
  refine ⟨hnear, ?_, hlo.imp_right fun h => ?_⟩
  · have hn : n < 2 ^ 53 * (d * 2 ^ j) := by
      rw [Nat.div_lt_iff_lt_mul hd] at hhi
      linarith
    have h2 := hnear.le_half_below
    generalize nearestEven n (d * 2 ^ j) = q at *
    by_contra hq
    have : (2 ^ 53 + 1) * (d * 2 ^ j) ≤ q * (d * 2 ^ j) := Nat.mul_le_mul_right _ (by omega)
    rw [Nat.mul_assoc] at h2
    omega
  · rw [Nat.le_div_iff_mul_le hd] at h
    linarith

namespace IsRoundedAt

variable {n d j q : Nat}

theorem two_pow_le (h : IsRoundedAt n d j q) (hd : 0 < d) : j = 0 ∨ 2 ^ 52 ≤ q := by
  refine h.normal.imp_right fun hn => ?_
  have hden : 0 < d * 2 ^ j := Nat.mul_pos hd (Nat.two_pow_pos j)
  have h1 := h.nearest.le_half_above
  by_contra hq
  have : (2 * q + 1) * (d * 2 ^ j) ≤ (2 ^ 53 - 1) * (d * 2 ^ j) := Nat.mul_le_mul_right _ (by omega)
  omega

theorem units_eq (h : IsRoundedAt n d j q) (hd : 0 < d) (s : Bool) (hfin : j * 2 ^ 52 + q < 2047 * 2 ^ 52) :
    (F64.ofMagnitude s (j * 2 ^ 52 + q)).units = q * 2 ^ j :=
  F64.ofMagnitude_units s h.le_two_pow (h.two_pow_le hd) hfin

/-- The magnitude stays below a binade exactly where the quotient is below the half-way point under that binade's least
value. -/
theorem lt_binade_iff (h : IsRoundedAt n d j q) (hd : 0 < d) (p : Nat) :
    j * 2 ^ 52 + q < (p + 3) * 2 ^ 52 ↔ n < d * ((2 ^ 54 - 1) * 2 ^ p) := by
  have h1 := h.nearest.le_half_above
  have h2 := h.nearest.le_half_below
  have h3 := h.nearest.even_at_tie
  have hq := h.le_two_pow
  have hn := h.normal
  have hq' := h.two_pow_le hd
  have hpos : 0 < d * 2 ^ p := Nat.mul_pos hd (Nat.two_pow_pos p)
  rw [Nat.mul_left_comm]
  rcases Nat.lt_trichotomy j (p + 1) with hj | rfl | hj
  · have hle : d * 2 ^ j ≤ d * 2 ^ p := Nat.mul_le_mul_left d (Nat.pow_le_pow_right (by decide) (by omega))
    have := Nat.mul_le_mul (show 2 * q + 1 ≤ 2 ^ 54 + 1 by omega) hle
    omega
  · have e : d * 2 ^ (p + 1) = 2 * (d * 2 ^ p) := by ring
    rw [e] at h1 h2 h3
    generalize d * 2 ^ p = a at *
    rcases (by omega : q + 1 < 2 ^ 53 ∨ q = 2 ^ 53 - 1 ∨ q = 2 ^ 53) with hlt | rfl | rfl
    · have := Nat.mul_le_mul_right (2 * a) (show 2 * q + 1 ≤ 2 ^ 54 - 3 by omega)
      omega
    · omega
    · omega
  · have hle : d * 2 ^ (p + 2) ≤ d * 2 ^ j := Nat.mul_le_mul_left d (Nat.pow_le_pow_right (by decide) (by omega))
    have e : d * 2 ^ (p + 2) = 4 * (d * 2 ^ p) := by ring
    omega

end IsRoundedAt

/-- Below `2^52 * 2^j` units, or a whole number of quanta `2^j`: the finite magnitudes seen from the exponent offset `j`. -/
theorem F64.units_lt_or_dvd (y : F64) (j : Nat) : y.units < 2 ^ 52 * 2 ^ j ∨ 2 ^ j ∣ y.units := by
  cases y with
  | inf _ => exact .inr (Nat.dvd_zero _)
  | nan _ _ => exact .inr (Nat.dvd_zero _)
  | fin s e f =>
    have hf : f.toNat < 2 ^ 52 := f.isLt
    simp only [F64.units]
    split
    · exact .inl (Nat.lt_of_lt_of_le hf (Nat.le_mul_of_pos_right _ (Nat.two_pow_pos j)))
    · rcases Nat.lt_or_ge (e.val - 1) j with hj | hj
      · refine .inl (Nat.lt_of_lt_of_le (Nat.mul_lt_mul_of_pos_right (show 2 ^ 52 + f.toNat < 2 ^ 52 * 2 by omega)
          (Nat.two_pow_pos _)) ?_)
        rw [Nat.mul_assoc, ← Nat.pow_succ']
        exact Nat.mul_le_mul_left _ (Nat.pow_le_pow_right (by decide) hj)
      · exact .inr (Dvd.dvd.mul_left (Nat.pow_dvd_pow 2 hj) _)

/-- No finite magnitude is nearer to the quotient than the fraction it is rounded to, and one that is as near makes a tie. -/
theorem IsRoundedAt.nearest_units {n d j q : Nat} (h : IsRoundedAt n d j q) (hd : 0 < d) (y : F64) :
    (((q * 2 ^ j : Nat) : Int) * d - n).natAbs ≤ ((y.units : Int) * d - n).natAbs ∧
      ((((q * 2 ^ j : Nat) : Int) * d - n).natAbs = ((y.units : Int) * d - n).natAbs → y.units ≠ q * 2 ^ j →
        q % 2 = 0) := by
  have e (k : Nat) : ((k * 2 ^ j : Nat) : Int) * d = k * (d * 2 ^ j : Nat) := by push_cast; ring
  by_cases hdvd : 2 ^ j ∣ y.units
  · obtain ⟨k, hk⟩ := hdvd
    rw [hk, Nat.mul_comm (2 ^ j) k, e, e]
    obtain ⟨hle, htie⟩ := h.nearest.nearest k
    exact ⟨hle, fun heq hne => htie heq fun hkq => hne (by rw [hkq])⟩
  · have hlt := (F64.units_lt_or_dvd y j).resolve_right hdvd
    have hnorm := h.normal.resolve_left (by rintro rfl; exact hdvd (Nat.one_dvd _))
    obtain ⟨hle, -⟩ := h.nearest.nearest (2 ^ 52)
    have hy : y.units * d < 2 ^ 52 * (d * 2 ^ j) := by
      calc y.units * d < 2 ^ 52 * 2 ^ j * d := Nat.mul_lt_mul_of_pos_right hlt hd
        _ = 2 ^ 52 * (d * 2 ^ j) := by ring
    have hfar : ((q : Int) * (d * 2 ^ j : Nat) - n).natAbs < ((y.units : Int) * d - n).natAbs := by
      have hy' : (y.units : Int) * d < (2 ^ 52 : Nat) * (d * 2 ^ j : Nat) := by exact_mod_cast hy
      have hn' : ((2 ^ 52 : Nat) : Int) * (d * 2 ^ j : Nat) ≤ n := by exact_mod_cast hnorm
      omega
    rw [e]
    exact ⟨Nat.le_of_lt hfar, fun heq _ => absurd heq (Nat.ne_of_lt hfar)⟩

/-- The last fraction bit of a finite value is the lowest bit of its magnitude. -/
theorem F64.ofMagnitude_toBits_lsb (s : Bool) {m : Nat} (h : (F64.ofMagnitude s m).isFinite = true) :
    (F64.ofMagnitude s m).toBits.getLsbD 0 = decide (m % 2 = 1) := by
  rw [F64.ofMagnitude_isFinite] at h
  rw [F64.ofMagnitude, dif_pos (by omega : m / 2 ^ 52 < 2047)]
  simp only [F64.toBits, BitVec.getLsbD_ofNat, BitVec.toNat_ofNat, Nat.testBit_zero, Nat.div_add_mod', Nat.zero_lt_succ,
    decide_true, Bool.true_and, decide_eq_decide]
  split <;> omega

theorem F64.ofMagnitude_finite_or_inf (s : Bool) {m : Nat} {c : Prop} [Decidable c] (h : m < 2047 * 2 ^ 52 ↔ c) :
    if c then (F64.ofMagnitude s m).isFinite = true else F64.ofMagnitude s m = .inf s := by
  split
  case isTrue hc => exact (F64.ofMagnitude_isFinite s m).mpr (h.mpr hc)
  case isFalse hc =>
    rw [← h] at hc
    rw [F64.ofMagnitude, dif_neg (by omega)]

/-- Rounding an exact quotient once (00_scope.md R16): no finite magnitude is nearer, ties go to the even one, and the overflow
starts half-way above the greatest finite value. -/
theorem F64.roundUnits_isRounding (s : Bool) (n : Nat) {d : Nat} (hd : 0 < d) :
    (F64.roundUnits s n d).IsRounding s n d := by
  obtain ⟨j, q, he, hr⟩ := F64.roundUnits_isRoundedAt s n hd
  have hfin := hr.lt_binade_iff hd 2044
  unfold F64.IsRounding
  generalize d * ((2 ^ 54 - 1) * 2 ^ 2044) = top at hfin ⊢
  rw [he]
  refine ⟨F64.ofMagnitude_sign s _, F64.ofMagnitude_finite_or_inf s hfin, fun hx y _ => ?_⟩
  have hlt := (F64.ofMagnitude_isFinite s _).mp hx
  obtain ⟨hle, htie⟩ := hr.nearest_units hd y
  rw [hr.units_eq hd s hlt, F64.ofMagnitude_toBits_lsb s hx]
  refine ⟨hle, fun heq hne => ?_⟩
  have heven := htie heq hne
  exact decide_eq_false (by omega)

end Sys2Proof
end

section
/-! ## PROOFS. The binary64 operations: each is its exact result rounded once, or the special result of IEEE 754 -/

namespace Sys2Proof

namespace F64

theorem exists_fin_of_isFinite {x : F64} (hx : x.isFinite = true) : ∃ s e f, x = .fin s e f := by
  cases x with
  | fin s e f => exact ⟨s, e, f, rfl⟩
  | inf _ => simp [isFinite] at hx
  | nan _ _ => simp [isFinite] at hx

theorem toInt1074_fin_not (s : Bool) (e : Fin 2047) (f : BitVec 52) :
    (F64.fin (!s) e f).toInt1074 = -(F64.fin s e f).toInt1074 := by
  cases s <;> simp [toInt1074, sign, units]

/-- The operations on finite operands, without their match. -/
theorem add_of_isFinite {x y : F64} (hx : x.isFinite = true) (hy : y.isFinite = true) :
    F64.add x y = if x.toInt1074 + y.toInt1074 = 0 then .fin (x.sign && y.sign) 0 0
      else .roundUnits (decide (x.toInt1074 + y.toInt1074 < 0)) (x.toInt1074 + y.toInt1074).natAbs 1 := by
  obtain ⟨sx, ex, fx, rfl⟩ := exists_fin_of_isFinite hx
  obtain ⟨sy, ey, fy, rfl⟩ := exists_fin_of_isFinite hy
  rfl

theorem sub_of_isFinite {x y : F64} (hx : x.isFinite = true) (hy : y.isFinite = true) :
    F64.sub x y = if x.toInt1074 - y.toInt1074 = 0 then .fin (x.sign && !y.sign) 0 0
      else .roundUnits (decide (x.toInt1074 - y.toInt1074 < 0)) (x.toInt1074 - y.toInt1074).natAbs 1 := by
  obtain ⟨sy, ey, fy, rfl⟩ := exists_fin_of_isFinite hy
  rw [Int.sub_eq_add_neg, ← toInt1074_fin_not]
  exact add_of_isFinite hx rfl

theorem mul_of_isFinite {x y : F64} (hx : x.isFinite = true) (hy : y.isFinite = true) :
    F64.mul x y = .roundUnits (x.sign ^^ y.sign) (x.units * y.units) one1074 := by
  obtain ⟨sx, ex, fx, rfl⟩ := exists_fin_of_isFinite hx
  obtain ⟨sy, ey, fy, rfl⟩ := exists_fin_of_isFinite hy
  rfl

theorem div_of_isFinite {x y : F64} (hx : x.isFinite = true) (hy : y.isFinite = true) :
    F64.div x y = if y.units = 0 then (if x.units = 0 then .someNan (.op .div x y) else .inf (x.sign ^^ y.sign))
      else .roundUnits (x.sign ^^ y.sign) (x.units * one1074) y.units := by
  obtain ⟨sx, ex, fx, rfl⟩ := exists_fin_of_isFinite hx
  obtain ⟨sy, ey, fy, rfl⟩ := exists_fin_of_isFinite hy
  rfl

theorem one1074_eq : one1074 = 2 ^ 1074 := rfl

theorem one1074_pos : 0 < one1074 := by
  rw [one1074_eq]
  positivity

theorem literal_isRounding (s : Bool) (n : Nat) {d : Nat} (hd : 0 < d) :
    (F64.literal s n d).IsRounding s (n * 2 ^ 1074) d :=
  roundUnits_isRounding s (n * 2 ^ 1074) hd

theorem ofInt_isRounding (v : Int) : (F64.ofInt v).IsRounding (decide (v < 0)) (v.natAbs * 2 ^ 1074) 1 :=
  roundUnits_isRounding _ (v.natAbs * 2 ^ 1074) Nat.one_pos

section FiniteOperands

variable {x y : F64} (hx : x.isFinite = true) (hy : y.isFinite = true)
include hx hy

theorem add_isRounding (hne : x.toInt1074 + y.toInt1074 ≠ 0) :
    (F64.add x y).IsRounding (decide (x.toInt1074 + y.toInt1074 < 0)) (x.toInt1074 + y.toInt1074).natAbs 1 := by
  rw [add_of_isFinite hx hy, if_neg hne]
  exact roundUnits_isRounding _ _ Nat.one_pos

theorem add_eq_zero (h : x.toInt1074 + y.toInt1074 = 0) : F64.add x y = .fin (x.sign && y.sign) 0 0 := by
  rw [add_of_isFinite hx hy, if_pos h]

theorem sub_isRounding (hne : x.toInt1074 - y.toInt1074 ≠ 0) :
    (F64.sub x y).IsRounding (decide (x.toInt1074 - y.toInt1074 < 0)) (x.toInt1074 - y.toInt1074).natAbs 1 := by
  rw [sub_of_isFinite hx hy, if_neg hne]
  exact roundUnits_isRounding _ _ Nat.one_pos

theorem sub_eq_zero (h : x.toInt1074 - y.toInt1074 = 0) : F64.sub x y = .fin (x.sign && !y.sign) 0 0 := by
  rw [sub_of_isFinite hx hy, if_pos h]

theorem mul_isRounding : (F64.mul x y).IsRounding (x.sign ^^ y.sign) (x.units * y.units) (2 ^ 1074) := by
  rw [mul_of_isFinite hx hy]
  exact roundUnits_isRounding _ _ one1074_pos

theorem div_isRounding (hne : y.units ≠ 0) :
    (F64.div x y).IsRounding (x.sign ^^ y.sign) (x.units * 2 ^ 1074) y.units := by
  rw [div_of_isFinite hx hy, if_neg hne]
  exact roundUnits_isRounding _ _ (Nat.pos_of_ne_zero hne)

theorem div_zero_of_ne_zero (h : y.units = 0) (hne : x.units ≠ 0) : F64.div x y = .inf (x.sign ^^ y.sign) := by
  rw [div_of_isFinite hx hy, if_pos h, if_neg hne]

theorem zero_div_zero_isNan (h : y.units = 0) (hx0 : x.units = 0) : (F64.div x y).isNan = true := by
  rw [div_of_isFinite hx hy, if_pos h, if_pos hx0]
  rfl

theorem lt_iff_toInt1074_lt : x.lt y = true ↔ x.toInt1074 < y.toInt1074 := by
  obtain ⟨sx, ex, fx, rfl⟩ := exists_fin_of_isFinite hx
  obtain ⟨sy, ey, fy, rfl⟩ := exists_fin_of_isFinite hy
  exact lt_fin ..

theorem le_iff_toInt1074_le : x.le y = true ↔ x.toInt1074 ≤ y.toInt1074 := by
  obtain ⟨sx, ex, fx, rfl⟩ := exists_fin_of_isFinite hx
  obtain ⟨sy, ey, fy, rfl⟩ := exists_fin_of_isFinite hy
  exact le_fin ..

end FiniteOperands

/-! ### The integers next to a value -/

theorem rteUnits_isNearestEven (n : Nat) : IsNearestEven n (2 ^ 1074) (rteUnits n) := by
  rw [rteUnits_eq_nearestEven]
  exact nearestEven_spec n one1074_pos

/-- A value and its `rte` have the same sign, so their distance is that of the magnitudes. -/
theorem natAbs_rte_sub (x : F64) (d : Nat) :
    (x.rte * d - x.toInt1074).natAbs = ((rteUnits x.units : Int) * d - x.units).natAbs := by
  unfold rte toInt1074
  split
  · rw [Int.neg_mul, ← Int.natAbs_neg]
    congr 1
    ring
  · rfl

theorem rte_even {x : F64} (h : rteUnits x.units % 2 = 0) : x.rte % 2 = 0 := by
  unfold rte
  split <;> omega

theorem rte_nearest_of_isNearestEven {x : F64} {d : Nat} (h : IsNearestEven x.units d (rteUnits x.units)) :
    2 * (x.rte * d - x.toInt1074).natAbs ≤ d ∧ (2 * (x.rte * d - x.toInt1074).natAbs = d → x.rte % 2 = 0) := by
  rw [natAbs_rte_sub]
  exact ⟨h.two_mul_natAbs_le, fun htie => rte_even (h.even_of_natAbs_eq htie)⟩

theorem rte_nearest (x : F64) :
    2 * (x.rte * 2 ^ 1074 - x.toInt1074).natAbs ≤ 2 ^ 1074 ∧
      (2 * (x.rte * 2 ^ 1074 - x.toInt1074).natAbs = 2 ^ 1074 → x.rte % 2 = 0) := by
  have h := rte_nearest_of_isNearestEven (rteUnits_isNearestEven x.units)
  rwa [Nat.cast_pow, Nat.cast_ofNat] at h

theorem rtz_natAbs (x : F64) : x.rtz.natAbs = x.units / 2 ^ 1074 := by
  unfold rtz
  split
  · rw [Int.natAbs_neg, Int.natAbs_natCast, one1074_eq]
  · rw [Int.natAbs_natCast, one1074_eq]

theorem rtz_sign (x : F64) : if x.sign = true then x.rtz ≤ 0 else 0 ≤ x.rtz := by
  unfold rtz
  split
  · exact Int.neg_nonpos_of_nonneg (Int.natCast_nonneg _)
  · exact Int.natCast_nonneg _

theorem rtz_bounds (x : F64) : x.rtz.natAbs * 2 ^ 1074 ≤ x.units ∧ x.units < (x.rtz.natAbs + 1) * 2 ^ 1074 := by
  rw [rtz_natAbs]
  exact ⟨Nat.div_mul_le_self _ _, Nat.lt_mul_of_div_lt (Nat.lt_succ_self _) one1074_pos⟩

theorem abs_of_isFinite {x : F64} (hx : x.isFinite = true) :
    x.abs.isFinite = true ∧ x.abs.sign = false ∧ x.abs.units = x.units := by
  obtain ⟨sx, ex, fx, rfl⟩ := exists_fin_of_isFinite hx
  exact ⟨rfl, rfl, rfl⟩

/-! ### Infinities and NaNs (IEEE 754, log 12) -/

theorem sub_isNan {x y : F64} (h : x.isNan = true ∨ y.isNan = true) : (F64.sub x y).isNan = true := by
  cases y with
  | nan _ _ => rfl
  | fin _ _ _ => exact add_isNan (.inl (h.resolve_right Bool.false_ne_true))
  | inf _ => exact add_isNan (.inl (h.resolve_right Bool.false_ne_true))

theorem lt_eq_false_of_isNan {x y : F64} (h : x.isNan = true ∨ y.isNan = true) : x.lt y = false := by
  cases x <;> cases y <;> simp_all [isNan, lt]

theorem le_eq_false_of_isNan {x y : F64} (h : x.isNan = true ∨ y.isNan = true) : x.le y = false := by
  cases x <;> cases y <;> simp_all [isNan, le]

theorem mul_inf_of_units_ne_zero (a : Bool) {x : F64} (hx : x.isFinite = true) (h : x.units ≠ 0) :
    F64.mul (.inf a) x = .inf (a ^^ x.sign) ∧ F64.mul x (.inf a) = .inf (a ^^ x.sign) := by
  obtain ⟨sx, ex, fx, rfl⟩ := exists_fin_of_isFinite hx
  exact ⟨if_neg h, (if_neg h).trans (congrArg inf (Bool.xor_comm _ _))⟩

theorem mul_inf_isNan_of_units_eq_zero (a : Bool) {x : F64} (hx : x.isFinite = true) (h : x.units = 0) :
    (F64.mul (.inf a) x).isNan = true ∧ (F64.mul x (.inf a)).isNan = true := by
  obtain ⟨sx, ex, fx, rfl⟩ := exists_fin_of_isFinite hx
  simp [F64.mul, h, someNan, isNan]

theorem inf_with_finite (a : Bool) {x : F64} (hx : x.isFinite = true) :
    F64.add (.inf a) x = .inf a ∧ F64.add x (.inf a) = .inf a ∧
    F64.sub (.inf a) x = .inf a ∧ F64.sub x (.inf a) = .inf (!a) ∧
    (x.units ≠ 0 → F64.mul (.inf a) x = .inf (a ^^ x.sign) ∧ F64.mul x (.inf a) = .inf (a ^^ x.sign)) ∧
    (x.units = 0 → (F64.mul (.inf a) x).isNan = true ∧ (F64.mul x (.inf a)).isNan = true) ∧
    F64.div (.inf a) x = .inf (a ^^ x.sign) ∧ F64.div x (.inf a) = .fin (a ^^ x.sign) 0 0 ∧
    F64.lt (.inf a) x = a ∧ F64.le (.inf a) x = a ∧ F64.lt x (.inf a) = !a ∧ F64.le x (.inf a) = !a := by
  have hmul := mul_inf_of_units_ne_zero a hx
  have hnan := mul_inf_isNan_of_units_eq_zero a hx
  obtain ⟨sx, ex, fx, rfl⟩ := exists_fin_of_isFinite hx
  exact ⟨rfl, rfl, rfl, rfl, hmul, hnan, rfl, congrArg (fin · 0 0) (Bool.xor_comm _ _), rfl, rfl, rfl, rfl⟩

theorem inf_with_inf (a b : Bool) :
    F64.add (.inf a) (.inf a) = .inf a ∧ (F64.add (.inf a) (.inf (!a))).isNan = true ∧
    F64.sub (.inf a) (.inf (!a)) = .inf a ∧ (F64.sub (.inf a) (.inf a)).isNan = true ∧
    F64.mul (.inf a) (.inf b) = .inf (a ^^ b) ∧ (F64.div (.inf a) (.inf b)).isNan = true ∧
    F64.lt (.inf a) (.inf b) = (a && !b) ∧ F64.le (.inf a) (.inf b) = (a || !b) ∧ F64.abs (.inf a) = .inf false := by
  have hadd : F64.add (.inf a) (.inf a) = .inf a := if_pos rfl
  have hnan : (F64.add (.inf a) (.inf (!a))).isNan = true := by cases a <;> rfl
  refine ⟨hadd, hnan, ?_, hnan, rfl, rfl, rfl, rfl, rfl⟩
  simp only [F64.sub, Bool.not_not, hadd]

/-- Settles O46: every operation by the one rounding of `roundUnits_isRounding`, the integers next to a value by the same
rounding step at the quantum 1.0, and the special operands by their cases. -/
theorem roundingIsNearestEven : Obligations.RoundingIsNearestEven := by
  unfold Obligations.RoundingIsNearestEven
  refine ⟨fun s n d hd => ⟨roundUnits_isRounding s n hd, literal_isRounding s n hd⟩, ofInt_isRounding, ?_,
    fun x hx => ?_, fun x y hx hy h0 => ⟨div_zero_of_ne_zero hx hy h0, zero_div_zero_isNan hx hy h0⟩,
    fun a x hx => inf_with_finite a hx, inf_with_inf, fun x y h => ⟨add_isNan h, sub_isNan h, mul_isNan h, div_isNan h,
      lt_eq_false_of_isNan h, le_eq_false_of_isNan h⟩⟩
  · rintro x y _ _ hx hy rfl rfl
    exact ⟨add_isRounding hx hy, add_eq_zero hx hy, sub_isRounding hx hy, sub_eq_zero hx hy, mul_isRounding hx hy,
      div_isRounding hx hy, lt_iff_toInt1074_lt hx hy, le_iff_toInt1074_le hx hy⟩
  · obtain ⟨hhalf, heven⟩ := rte_nearest x
    obtain ⟨hlo, hhi⟩ := rtz_bounds x
    exact ⟨hhalf, heven, hlo, hhi, rtz_sign x, abs_of_isFinite hx⟩

end F64
end Sys2Proof
end

section
/-! ## PROOFS. The square root: an integer root with a sticky bit, and its one rounding -/

namespace Sys2Proof

/-- `w` compares with every even number `2 * c` as twice the root of `n` does: twice the integer root, with a sticky bit. -/
def IsStickyRoot (n w : Nat) : Prop := ∀ c : Nat, (2 * c ≤ w → c ^ 2 ≤ n) ∧ (w ≤ 2 * c → n ≤ c ^ 2)

theorem isStickyRoot_of_floor {n q : Nat} (hlo : q * q ≤ n) (hhi : n < (q + 1) * (q + 1)) :
    IsStickyRoot n (2 * q + if q * q = n then 0 else 1) := by
  intro c
  rw [Nat.pow_two]
  constructor
  · intro hc
    have hcq : c ≤ q := by split at hc <;> omega
    exact Nat.le_trans (Nat.mul_self_le_mul_self hcq) hlo
  · intro hc
    by_cases hsq : q * q = n
    · rw [if_pos hsq] at hc
      exact hsq ▸ Nat.mul_self_le_mul_self (by omega)
    · rw [if_neg hsq] at hc
      exact Nat.le_trans (Nat.le_of_lt hhi) (Nat.mul_self_le_mul_self (by omega))

theorem natSqrtBits_floor {k n : Nat} (h : n < 2 ^ k * 2 ^ k) :
    natSqrtBits k n 0 * natSqrtBits k n 0 ≤ n ∧ n < (natSqrtBits k n 0 + 1) * (natSqrtBits k n 0 + 1) :=
  natSqrtBits_spec k n 0 (Nat.zero_le n) (by rwa [Nat.zero_add])

/-- The rounding of the root of `n` to a fraction `k` under exponent offset `j`, said of squares: the root lies within half a
quantum, and is not below the binade's least value. -/
structure IsRootAt (n j k : Nat) : Prop where
  two_pow_le : 2 ^ 52 ≤ k
  le_two_pow : k ≤ 2 ^ 53
  half_below : ((2 * k - 1) * 2 ^ j) ^ 2 ≤ 4 * n
  half_above : 4 * n ≤ ((2 * k + 1) * 2 ^ j) ^ 2
  binade_le : (2 ^ 52 * 2 ^ j) ^ 2 ≤ n

/-- With at least 57 bits before the sticky bit, the half-way points of the rounding are even numbers of the sticky root's own
quantum, so it rounds as the exact root does. -/
theorem IsRoundedAt.isRootAt {n w a j k : Nat} (hw : IsStickyRoot n w) (hbits : 2 ^ 57 ≤ w)
    (h : IsRoundedAt (w * 2 ^ a) 2 j k) : a < j ∧ IsRootAt (n * 4 ^ a) j k := by
  have habove := h.nearest.le_half_above
  have hbelow := h.nearest.le_half_below
  have hk := h.two_pow_le Nat.two_pos
  have haj : a < j := by
    by_contra hja
    have hle : 2 ^ j ≤ 2 ^ a := Nat.pow_le_pow_right Nat.two_pos (by omega)
    have h1 := Nat.mul_le_mul (show 2 * k + 1 ≤ 2 ^ 54 + 1 by have := h.le_two_pow; omega) hle
    have h2 := Nat.mul_le_mul_right (2 ^ a) hbits
    have hpos := Nat.two_pow_pos a
    rw [Nat.mul_left_comm (2 * k + 1)] at habove
    omega
  obtain ⟨i, rfl⟩ : ∃ i, j = a + 1 + i := ⟨j - (a + 1), by omega⟩
  have hnormal := h.normal.resolve_left (by omega)
  have hk52 := hk.resolve_left (by omega)
  have hpow : 2 ^ (a + 1 + i) = 2 * 2 ^ i * 2 ^ a := by ring
  have hpos := Nat.two_pow_pos a
  have hw_above : w ≤ 2 * ((2 * k + 1) * 2 ^ i) := by
    refine Nat.le_of_mul_le_mul_right ?_ hpos
    rw [hpow] at habove
    linarith
  have hw_below : 2 * ((2 * k - 1) * 2 ^ i) ≤ w := by
    refine Nat.le_of_mul_le_mul_right ?_ hpos
    rw [hpow] at hbelow
    obtain ⟨c, rfl⟩ : ∃ c, k = c + 1 := ⟨k - 1, by omega⟩
    rw [show 2 * (c + 1) - 1 = 2 * c + 1 by omega]
    linarith
  have hw_binade : 2 * (2 ^ 52 * (2 * 2 ^ i)) ≤ w := by
    refine Nat.le_of_mul_le_mul_right ?_ hpos
    rw [hpow] at hnormal
    linarith
  have scale (b : Nat) : (b * 2 ^ (a + 1 + i)) ^ 2 = 4 * ((b * 2 ^ i) ^ 2 * 4 ^ a) := by
    rw [hpow, show 4 ^ a = (2 ^ a) ^ 2 by rw [← Nat.pow_mul, Nat.mul_comm a 2, Nat.pow_mul]]
    ring
  refine ⟨haj, hk52, h.le_two_pow, ?_, ?_, ?_⟩
  · rw [scale]
    exact Nat.mul_le_mul_left 4 (Nat.mul_le_mul_right _ ((hw _).1 hw_below))
  · rw [scale]
    exact Nat.mul_le_mul_left 4 (Nat.mul_le_mul_right _ ((hw _).2 hw_above))
  · rw [scale]
    have := Nat.mul_le_mul_right (4 ^ a) ((hw _).1 hw_binade)
    linarith

/-- The square of a half-way point between fractions of 53 bits has an odd factor too great for a significand: the exact root of
a finite value is never half-way. -/
theorem half_way_not_root {m t o j : Nat} (hm0 : 0 < m) (hm : m < 2 ^ 53) (ho : o % 2 = 1) (hlarge : 2 ^ 53 - 1 ≤ o) :
    (o * 2 ^ j) ^ 2 ≠ 4 * (m * 2 ^ t) := by
  intro h
  have hcop : Nat.Coprime (o ^ 2) (2 ^ (t + 2)) :=
    Nat.Coprime.pow 2 (t + 2) (Nat.coprime_two_right.mpr (Nat.odd_iff.mpr ho))
  have hdvd : o ^ 2 ∣ m * 2 ^ (t + 2) := by
    rw [show m * 2 ^ (t + 2) = (o * 2 ^ j) ^ 2 by rw [h]; ring, Nat.mul_pow]
    exact Nat.dvd_mul_right _ _
  have hle : o ^ 2 ≤ m := Nat.le_of_dvd hm0 (hcop.dvd_of_dvd_mul_right hdvd)
  have : o * 2 ≤ o ^ 2 := by
    rw [Nat.pow_two]
    exact Nat.mul_le_mul_left o (by omega)
  omega

/-- No finite magnitude is as near to the root as the fraction it is rounded to, said of squares: the root lies strictly on that
fraction's side of the half-way point. -/
theorem IsRootAt.strictly_nearest {m t j k : Nat} (h : IsRootAt (m * 2 ^ t) j k) (hm0 : 0 < m) (hm : m < 2 ^ 53) (y : F64) :
    (y.units < k * 2 ^ j → (k * 2 ^ j + y.units) ^ 2 < 4 * (m * 2 ^ t)) ∧
      (k * 2 ^ j < y.units → 4 * (m * 2 ^ t) < (k * 2 ^ j + y.units) ^ 2) := by
  have hk := h.two_pow_le
  have hbinade : 2 ^ 52 * 2 ^ j ≤ k * 2 ^ j := Nat.mul_le_mul_right _ hk
  constructor
  · intro hy
    rcases Nat.eq_or_lt_of_le hk with rfl | hk'
    · calc (2 ^ 52 * 2 ^ j + y.units) ^ 2 < (2 * (2 ^ 52 * 2 ^ j)) ^ 2 := Nat.pow_lt_pow_left (by omega) (by decide)
        _ = 4 * (2 ^ 52 * 2 ^ j) ^ 2 := by ring
        _ ≤ 4 * (m * 2 ^ t) := Nat.mul_le_mul_left 4 h.binade_le
    · have hprev : y.units ≤ (k - 1) * 2 ^ j := by
        rcases F64.units_lt_or_dvd y j with hlt | ⟨c, hc⟩
        · exact Nat.le_trans (Nat.le_of_lt hlt) (Nat.mul_le_mul_right _ (by omega))
        · rw [hc, Nat.mul_comm] at hy ⊢
          exact Nat.mul_le_mul_right _ (Nat.le_sub_one_of_lt (Nat.lt_of_mul_lt_mul_right hy))
      have hsum : k * 2 ^ j + y.units ≤ (2 * k - 1) * 2 ^ j := by
        rw [show 2 * k - 1 = k + (k - 1) by omega, Nat.add_mul]
        exact Nat.add_le_add_left hprev _
      exact Nat.lt_of_le_of_lt (Nat.pow_le_pow_left hsum 2)
        (Nat.lt_of_le_of_ne h.half_below (half_way_not_root hm0 hm (by omega) (by omega)))
  · intro hy
    have hnext : (k + 1) * 2 ^ j ≤ y.units := by
      obtain ⟨c, hc⟩ := (F64.units_lt_or_dvd y j).resolve_left (by omega)
      rw [hc, Nat.mul_comm (2 ^ j)] at hy ⊢
      exact Nat.mul_le_mul_right _ (Nat.lt_of_mul_lt_mul_right hy)
    have hsum : (2 * k + 1) * 2 ^ j ≤ k * 2 ^ j + y.units := by
      rw [show 2 * k + 1 = k + (k + 1) by omega, Nat.add_mul]
      exact Nat.add_le_add_left hnext _
    exact Nat.lt_of_lt_of_le
      (Nat.lt_of_le_of_ne h.half_above (half_way_not_root hm0 hm (by omega) (by omega)).symm)
      (Nat.pow_le_pow_left hsum 2)

namespace F64

/-- The integer under the root of `sqrtUnits`: at least 113 bits, and at most 166. -/
def sqrtRadicand (f t : Nat) : Nat := f * 2 ^ ((t + 1074) % 2 + 112)

/-- Twice the integer root of the radicand, with the sticky bit. -/
def sqrtSticky (f t : Nat) : Nat :=
  2 * natSqrtBits 84 (sqrtRadicand f t) 0 +
    if natSqrtBits 84 (sqrtRadicand f t) 0 * natSqrtBits 84 (sqrtRadicand f t) 0 = sqrtRadicand f t then 0 else 1

theorem sqrtUnits_eq (f t : Nat) :
    sqrtUnits f t = roundUnits false (sqrtSticky f t * 2 ^ ((t + 1074) / 2 - 56)) 2 := rfl

theorem sqrtRadicand_mul (f t : Nat) : sqrtRadicand f t * 4 ^ ((t + 1074) / 2 - 56) = f * 2 ^ (t + 1074) := by
  rw [sqrtRadicand, show 4 = 2 ^ 2 from rfl, ← Nat.pow_mul, Nat.mul_assoc, ← Nat.pow_add]
  congr 2
  omega

theorem sqrtRadicand_bounds {f : Nat} (t : Nat) (hf0 : 0 < f) (hf : f < 2 ^ 53) :
    2 ^ 56 * 2 ^ 56 ≤ sqrtRadicand f t ∧ sqrtRadicand f t < 2 ^ 84 * 2 ^ 84 := by
  unfold sqrtRadicand
  rcases Nat.mod_two_eq_zero_or_one (t + 1074) with h | h <;> rw [h] <;> omega

/-- The sticky root stands for the root of the radicand, and keeps 57 to 85 bits of it. -/
theorem sqrtSticky_spec {f : Nat} (t : Nat) (hf0 : 0 < f) (hf : f < 2 ^ 53) :
    IsStickyRoot (sqrtRadicand f t) (sqrtSticky f t) ∧ 2 ^ 57 ≤ sqrtSticky f t ∧ sqrtSticky f t ≤ 2 ^ 85 := by
  obtain ⟨hmin, hmax⟩ := sqrtRadicand_bounds t hf0 hf
  obtain ⟨hlo, hhi⟩ := natSqrtBits_floor hmax
  refine ⟨isStickyRoot_of_floor hlo hhi, ?_, ?_⟩
  · have := Nat.mul_self_lt_mul_self_iff.mp (Nat.lt_of_le_of_lt hmin hhi)
    unfold sqrtSticky
    omega
  · have := Nat.mul_self_lt_mul_self_iff.mp (Nat.lt_of_le_of_lt hlo hmax)
    unfold sqrtSticky
    split <;> omega

/-- The rounding of the sticky root is that of the exact root, and does not overflow. -/
theorem sqrtUnits_isRootAt {f t : Nat} (hf0 : 0 < f) (hf : f < 2 ^ 53) (ht : t ≤ 2045) :
    ∃ j k : Nat, (sqrtUnits f t).isFinite = true ∧ (sqrtUnits f t).units = k * 2 ^ j ∧
      IsRootAt (f * 2 ^ (t + 1074)) j k := by
  obtain ⟨hroot, hmin, hmax⟩ := sqrtSticky_spec t hf0 hf
  rw [sqrtUnits_eq, ← sqrtRadicand_mul]
  obtain ⟨j, k, he, hr⟩ := roundUnits_isRoundedAt false (sqrtSticky f t * 2 ^ ((t + 1074) / 2 - 56)) Nat.two_pos
  obtain ⟨haj, hat⟩ := hr.isRootAt hroot hmin
  have hj : 53 + j ≤ 85 + ((t + 1074) / 2 - 56) := by
    refine (Nat.pow_le_pow_iff_right Nat.one_lt_two).mp ?_
    calc 2 ^ (53 + j) = 2 ^ 52 * (2 * 2 ^ j) := by ring
      _ ≤ sqrtSticky f t * 2 ^ ((t + 1074) / 2 - 56) := hr.normal.resolve_left (by omega)
      _ ≤ 2 ^ 85 * 2 ^ ((t + 1074) / 2 - 56) := Nat.mul_le_mul_right _ hmax
      _ = 2 ^ (85 + ((t + 1074) / 2 - 56)) := (Nat.pow_add ..).symm
  have hfin : j * 2 ^ 52 + k < 2047 * 2 ^ 52 := by
    have := hr.le_two_pow
    omega
  rw [he]
  exact ⟨j, k, (ofMagnitude_isFinite _ _).mpr hfin, hr.units_eq Nat.two_pos false hfin, hat⟩

/-- A positive finite value is a significand of at most 53 bits under an exponent, and its root that of `sqrtUnits`. -/
theorem sqrt_eq_sqrtUnits {x : F64} (hx : x.isFinite = true) (hs : x.sign = false) (h0 : 0 < x.units) :
    ∃ f t : Nat, F64.sqrt x = sqrtUnits f t ∧ x.units = f * 2 ^ t ∧ 0 < f ∧ f < 2 ^ 53 ∧ t ≤ 2045 := by
  obtain ⟨s, e, f, rfl⟩ := exists_fin_of_isFinite hx
  obtain rfl : s = false := hs
  have hf : f.toNat < 2 ^ 52 := f.isLt
  have he := e.isLt
  by_cases he0 : e.val = 0
  · have hu : (F64.fin false e f).units = f.toNat := if_pos he0
    refine ⟨f.toNat, 0, ?_, ?_, ?_, ?_, ?_⟩
    · rw [F64.sqrt, if_neg (by omega), if_neg Bool.false_ne_true, if_pos he0]
    all_goals omega
  · refine ⟨2 ^ 52 + f.toNat, e.val - 1, ?_, if_neg he0, ?_, ?_, ?_⟩
    · rw [F64.sqrt, if_neg (by omega), if_neg Bool.false_ne_true, if_neg he0]
    all_goals omega

theorem sqrtUnits_sign (f t : Nat) : (sqrtUnits f t).sign = false := roundUnits_sign ..

theorem sqrt_zero (s : Bool) : F64.sqrt (.fin s 0 0) = .fin s 0 0 := by
  rw [F64.sqrt, if_pos ⟨rfl, rfl⟩]

theorem sqrt_neg_isNan {x : F64} (hs : x.sign = true) (h0 : x.units ≠ 0) : (F64.sqrt x).isNan = true := by
  cases x with
  | inf _ => exact absurd rfl h0
  | nan _ _ => exact sqrt_isNan rfl
  | fin s e f =>
    obtain rfl : s = true := hs
    have hne : ¬ (e.val = 0 ∧ f.toNat = 0) := fun ⟨he, hf⟩ => h0 ((if_pos he).trans hf)
    rw [F64.sqrt, if_neg hne, if_pos rfl]
    rfl

/-- Settles O47: the root's sticky integer form rounds as the exact root (`sqrtUnits_isRootAt`), and a rounded root is strictly
nearest (`IsRootAt.strictly_nearest`). -/
theorem squareRootIsNearest : Obligations.SquareRootIsNearest := by
  unfold Obligations.SquareRootIsNearest
  refine ⟨?_, sqrt_zero, rfl, ?_⟩
  · rintro x r hx hs h0 rfl
    obtain ⟨f, t, hsqrt, hu, hf0, hf, ht⟩ := sqrt_eq_sqrtUnits hx hs h0
    obtain ⟨j, k, hfin, hr, hat⟩ := sqrtUnits_isRootAt hf0 hf ht
    have hsq : 4 ^ j = (2 ^ j) ^ 2 := by rw [← Nat.pow_mul, Nat.mul_comm, Nat.pow_mul]
    rw [hsqrt, hr, hu, Nat.mul_assoc, ← Nat.pow_add]
    refine ⟨hfin, sqrtUnits_sign f t, ⟨j, k, hat.two_pow_le, hat.le_two_pow, rfl, ?_, ?_⟩,
      fun y _ => hat.strictly_nearest hf0 hf y⟩
    · rw [hsq, ← Nat.mul_pow]
      exact hat.half_below
    · rw [hsq, ← Nat.mul_pow]
      exact hat.half_above
  · rintro x (hnan | rfl | ⟨hs, h0⟩)
    · exact sqrt_isNan hnan
    · rfl
    · exact sqrt_neg_isNan hs h0

end F64
end Sys2Proof
end

section
/-! ## PROOFS. One step, once: the rows a block step can take, and whose turn a step is -/

namespace Sys2Proof.Machine

variable {s t : State}

/-- Everything a block step can do (45_bridge_loop.md R220), with the condition each row holds under. -/
inductive State.BlockRow (s : State) : State → Prop
  | wait : s.BlockRow s
  | ioFailure (h : s.failing = true) : s.BlockRow s.ioFail
  | stop (h : s.stopping = true) : s.BlockRow (s.withFsm .stopped)
  | search (h : s.fsm = .idle) : s.BlockRow (s.withFsm .waitSync)
  | openLong (h : s.syncHere [0xAA, 0x44, 0x12] = true) : s.BlockRow (s.openFrame .long 28)
  | openShort (h : s.syncHere [0xAA, 0x44, 0x13] = true) : s.BlockRow (s.openFrame .short 12)
  | openText (h : s.syncHere [0x3C, 0x49, 0x4E] = true) :
    s.BlockRow (((s.matchSync .infoText).withPos (s.pos + 3)).withFsm .textSkip)
  | discard (b0 b1 b2 : Byte) (h : s.syncHere [b0, b1, b2] = true) : s.BlockRow s.discardByte
  | unknownKind (hf : s.fsm = .textSkip ∨ s.fsm = .header) (hk : s.frame.kind = .unknown) :
    s.BlockRow (s.stopWith (.unknownHeaderKind s.frame))
  | longHeader (hf : s.fsm = .header) (hk : s.frame.kind = .long) (h : s.frame.syncOff + 28 ≤ s.avail) :
    s.BlockRow s.decodeLong
  | shortHeader (hf : s.fsm = .header) (hk : s.frame.kind = .short) (h : s.frame.syncOff + 12 ≤ s.avail) :
    s.BlockRow s.decodeShort
  | textByte (b : Byte) (hf : s.fsm = .textSkip) (hb : s.byteAt s.pos = some b) (ht : textOk b = true) :
    s.BlockRow (s.withPos (s.pos + 1))
  | textEnd (hf : s.fsm = .textSkip) :
    s.BlockRow ((s.withFrame { s.frame with hl := s.pos - s.frame.syncOff }).withFsm .idle)
  | abort (e : Event) (id : BitVec 16) (h : s.messageHere id = true)
    (he : e = .unsupported s.frame ∨ e = .lengthMismatch s.frame ∨ ∃ r, e = .outOfRange r s.frame) :
    s.BlockRow (s.abortFrame e)
  | commit (cand : Attitude) (id : BitVec 16) (h : s.messageHere id = true) (hd : cand.firstViolation = none)
    (hu : cand = s.arf ∨ id ∈ [(1465 : BitVec 16), 1708, 813]) :
    s.BlockRow { s with arf := cand, tx := ⟨recordOf cand s.status, 0⟩, pos := s.frame.frameEnd, fsm := .emit }
  | deliver (hf : s.fsm = .emit) (h : s.tx.ocnt < 26) (hr : s.host.outReady = true) (hn : s.failing = false) :
    s.BlockRow s.deliver

/-- A rule under its `require` is a row, or the wait. -/
theorem State.BlockRow.of_stepIf {b : Bool} {u : State} (h : stepIf b u s = .next t) (hrow : b = true → s.BlockRow u) :
    s.BlockRow t := by
  cases b with
  | false =>
    obtain rfl : s = t := by simpa [stepIf_false rfl] using h
    exact .wait
  | true =>
    obtain rfl : u = t := by simpa [stepIf_true rfl] using h
    exact hrow rfl

/-- A supported message aborts the frame, or commits what its update makes of ARF. -/
theorem State.supported_row {id : BitVec 16} (k : MsgKind) {upd : FieldRecord → Attitude → Attitude}
    (hu : upd = updNone ∨ id ∈ [(1465 : BitVec 16), 1708, 813]) (h : s.messageHere id = true) :
    s.BlockRow (s.supported k upd) := by
  rcases s.supported_cases k upd with ⟨-, e⟩ | ⟨-, e⟩ <;> rw [e]
  · exact .abort _ id h (.inr (.inl rfl))
  rcases s.dispose_cases (upd (s.fieldsOf k) s.arf) with ⟨hd, e⟩ | ⟨r, -, e⟩ <;> rw [e]
  · exact .commit _ id h hd (hu.imp_left fun hu => by rw [hu]; rfl)
  · exact .abort _ id h (.inr (.inr ⟨r, rfl⟩))

theorem exec_row {i : Instr} (h : exec i s = .next t) : s.BlockRow t := by
  cases i with
  | syncLong => exact .of_stepIf h .openLong
  | syncShort => exact .of_stepIf h .openShort
  | syncInfoText => exact .of_stepIf h .openText
  | syncNone b0 b1 b2 =>
    refine .of_stepIf h fun hb => .discard b0 b1 b2 ?_
    rw [Bool.and_eq_true] at hb
    exact hb.1
  | msg1462 | msg1457 | msg319 | msg508 | msg1382 => exact .of_stepIf h (State.supported_row _ (.inl rfl))
  | msg1465 | msg1708 | msg813 => exact .of_stepIf h (State.supported_row _ (.inr (by decide)))
  | msgUnsupported id =>
    refine .of_stepIf h fun hb => .abort _ id ?_ (.inl rfl)
    rw [Bool.and_eq_true] at hb
    exact hb.1

theorem State.headerDecode_row (hf : s.fsm = .textSkip ∨ s.fsm = .header) : s.BlockRow s.headerDecode := by
  rcases s.headerDecode_cases with e | ⟨hk, hf, h, e⟩ | ⟨hk, hf, h, e⟩ | ⟨-, hf, e⟩ | ⟨hk, e⟩ <;> rw [e]
  · exact .wait
  · exact .longHeader hf hk h
  · exact .shortHeader hf hk h
  · rcases s.textStep_cases with ⟨-, e⟩ | ⟨b, hb, ht, e⟩ | ⟨b, -, -, e⟩ <;> rw [e]
    · exact .wait
    · exact .textByte b hf hb ht
    · exact .textEnd hf
  · exact .unknownKind hf hk

theorem State.control_row (s : State) : s.BlockRow s.control := by
  rcases s.control_cases with e | ⟨h, e⟩ | ⟨-, h, e⟩ | ⟨-, -, h, e⟩ | ⟨-, -, -, h, e⟩ | ⟨hn, -, hr, hf, e⟩ <;>
    rw [e]
  · exact .wait
  · exact .ioFailure h
  · exact .stop h
  · exact .search h
  · exact State.headerDecode_row h
  · simp only [State.rowReady, hf, Bool.and_eq_true, decide_eq_true_eq] at hr
    obtain ⟨hc, hready⟩ := hr
    exact .deliver hf hc hready hn

theorem blockStep_row (h : blockStep s = .next t) : s.BlockRow t := by
  rcases blockStep_cases s with ⟨i, -, e⟩ | ⟨-, e⟩ <;> rw [e] at h
  · exact exec_row h
  · cases h
    exact s.control_row

/-- The turn the arbitration takes: the schedule's next, or the default one (log 4). -/
def State.nextTurn (s : State) : Turn := s.host.sched.head?.getD (if s.blockEnabled = true then .block else .recv)

theorem State.nextTurn_of_head? {u : Turn} (h : s.host.sched.head? = some u) : s.nextTurn = u := by
  simp [State.nextTurn, h]

/-- Only the schedule has the turns of the host's lines: the default turn is none of them. -/
theorem State.head?_of_nextTurn {u : Turn} (h : s.nextTurn = u) (hb : u ≠ .block) (hr : u ≠ .recv) :
    s.host.sched.head? = some u := by
  subst h
  unfold State.nextTurn at *
  cases hs : s.host.sched.head? with
  | some u => rfl
  | none =>
    rw [hs, Option.getD_none] at hb hr
    split at hb
    · exact absurd rfl hb
    · exact absurd (if_neg ‹_›) hr

theorem State.arbitrate_eq (s : State) : s.arbitrate = s.popped.takeTurn s.nextTurn := by
  cases hs : s.host.sched with
  | nil => rw [State.arbitrate_nil hs, State.popped_nil hs, State.nextTurn, hs]; rfl
  | cons u us => rw [State.arbitrate_cons hs, State.popped_cons hs, State.nextTurn, hs]; rfl

@[simp] theorem State.popped_rst (s : State) : s.popped.host.rst = s.host.rst := rfl

/-- The outcome of a step, from what the arbitration answers. -/
def Choice.outcome : Choice → Host.Outcome State Fault Refusal
  | .done t => .next t
  | .block t => blockStep t

@[simp] theorem Choice.outcome_done (t : State) : (Choice.done t).outcome = .next t := rfl

theorem step_eq_outcome (s : State) : step s = (s.popped.takeTurn s.nextTurn).outcome := by
  rw [← State.arbitrate_eq]
  unfold step
  cases s.arbitrate <;> rfl

/-- A turn under reset, the one that asserts it and the one that releases it: the reset values (log 7). -/
theorem step_reset (h : s.host.rst = true ∨ (s.popped.hostSide s.nextTurn).host.rst = true) :
    step s = .next (s.popped.hostSide s.nextTurn).applyReset := by
  rw [step_eq_outcome]
  rcases s.popped.takeTurn_cases s.nextTurn with ⟨-, e⟩ | ⟨h1, h2, -⟩
  · rw [e, Choice.outcome_done]
  · rw [State.popped_rst] at h1
    simp [h1, h2] at h

theorem step_recv (hu : s.nextTurn = .recv) (hr : s.host.rst = false) : step s = .next s.popped.recv := by
  simp [step_eq_outcome, hu, State.takeTurn, State.hostSide, hr]

theorem step_status {v : Status} (hu : s.nextTurn = .status v) (hr : s.host.rst = false) :
    step s = .next (s.popped.withStatus v) := by
  simp [step_eq_outcome, hu, State.takeTurn, State.hostSide, hr]

/-- A turn that is none of the block's, the handshake's and the status write only drives a line or presents a byte. -/
theorem step_line (hb : s.nextTurn ≠ .block) (hv : s.nextTurn ≠ .recv) (hs : ∀ v, s.nextTurn ≠ .status v)
    (hr : s.host.rst = false) (hr' : (s.popped.hostSide s.nextTurn).host.rst = false) :
    step s = .next (s.popped.hostSide s.nextTurn) := by
  rw [step_eq_outcome]
  rcases s.popped.takeTurn_cases s.nextTurn with ⟨h, -⟩ | ⟨-, -, ⟨hu, -⟩ | ⟨hu, -⟩ | ⟨v, hu, -⟩ | e⟩
  · simp [hr, hr'] at h
  · exact absurd hu hb
  · exact absurd hu hv
  · exact absurd hu (hs v)
  · rw [e, Choice.outcome_done]

/-- Everything a step can do: reset comes first, then the turn's own effect (60_exceptions.md R261, 10_state.md R20). -/
inductive State.StepRow (s : State) : State → Prop
  | reset (h : s.host.rst = true ∨ (s.popped.hostSide s.nextTurn).host.rst = true) :
    s.StepRow (s.popped.hostSide s.nextTurn).applyReset
  | block {t : State} (hr : s.host.rst = false) (h : s.popped.BlockRow t) : s.StepRow t
  | recv (hr : s.host.rst = false) : s.StepRow s.popped.recv
  | status (v : Status) (hr : s.host.rst = false) (hu : s.nextTurn = .status v) : s.StepRow (s.popped.withStatus v)
  | line (hr : (s.popped.hostSide s.nextTurn).host.rst = false) : s.StepRow (s.popped.hostSide s.nextTurn)

theorem step_row (h : step s = .next t) : s.StepRow t := by
  rw [step_eq_outcome] at h
  rcases s.popped.takeTurn_cases s.nextTurn with
    ⟨hr, e⟩ | ⟨hr, hr', ⟨-, e⟩ | ⟨-, e⟩ | ⟨v, hu, e⟩ | e⟩ <;> rw [e] at h
  · cases h
    exact .reset hr
  · exact .block hr (blockStep_row h)
  · cases h
    exact .recv hr
  · cases h
    exact .status v hr hu
  · cases h
    exact .line hr'

end Sys2Proof.Machine
end

section
/-! ## PROOFS. Reset and the turns of the host -/

namespace Sys2Proof.Machine

variable {s t : State}

@[simp] theorem State.applyReset_host (s : State) : s.applyReset.host = s.host := rfl

/-- The host's queue after a host turn: a `present` turn adds its byte at the end, any other leaves it. -/
theorem State.hostSide_inq (s : State) (u : Turn) :
    (∃ b, u = .present b ∧ (s.hostSide u).host.inq = s.host.inq ++ [b]) ∨
      ((∀ b, u ≠ .present b) ∧ (s.hostSide u).host.inq = s.host.inq) := by
  cases u with
  | present b => exact .inl ⟨b, rfl, rfl⟩
  | _ => exact .inr ⟨nofun, rfl⟩

/-- The queue after the next turn's host part, by what the schedule has first. -/
theorem State.hostSide_nextTurn_inq (s : State) :
    (∃ b, s.host.sched.head? = some (.present b) ∧ (s.popped.hostSide s.nextTurn).host.inq = s.host.inq ++ [b]) ∨
      ((∀ b, s.host.sched.head? ≠ some (.present b)) ∧ (s.popped.hostSide s.nextTurn).host.inq = s.host.inq) := by
  rcases s.popped.hostSide_inq s.nextTurn with ⟨b, hu, e⟩ | ⟨hu, e⟩
  · exact .inl ⟨b, State.head?_of_nextTurn hu nofun nofun, e⟩
  · exact .inr ⟨fun b hb => hu b (State.nextTurn_of_head? hb), e⟩

/-- Settles O1: `step_reset` names the next state, and a state after `applyReset` has every reset value by definition. -/
theorem resetGivesEveryResetValue : Obligations.ResetGivesEveryResetValue := by
  unfold Obligations.ResetGivesEveryResetValue
  intro s h
  have hrst : s.host.rst = true ∨ (s.popped.hostSide s.nextTurn).host.rst = true := by
    refine h.imp_right fun h => ?_
    rw [State.nextTurn_of_head? h]
    rfl
  have hzero : F64.zero.toBits = 0 := by decide
  have hobuf : OutRecord.reset.obuf.toList = List.replicate 26 0 := by decide
  have hevents : (s.popped.hostSide s.nextTurn).events = s.events := by rw [State.hostSide_eq]; rfl
  have hout : (s.popped.hostSide s.nextTurn).out = s.out := by rw [State.hostSide_eq]; rfl
  refine ⟨_, step_reset hrst, ?_, rfl, rfl, rfl, rfl, rfl, rfl, rfl, hobuf, rfl, hout, ?_, ?_⟩
  · intro r
    cases r <;> exact hzero
  · simp [State.evtOut, State.applyReset, hevents]
  · rcases s.hostSide_nextTurn_inq with ⟨b, hb, e⟩ | ⟨hne, e⟩
    · refine ⟨fun b' hb' => ?_, fun hne => absurd hb (hne b)⟩
      obtain rfl : b = b' := by simpa [hb] using hb'
      exact e
    · exact ⟨fun b hb => absurd hb (hne b), fun _ => e⟩

/-- Settles O2: the machine evaluates the first step, and the encoder the record of the reset state. -/
theorem powerOnEntryPoint : Obligations.PowerOnEntryPoint := by
  unfold Obligations.PowerOnEntryPoint
  exact ⟨rfl, rfl, rfl, rfl, by decide +kernel⟩

/-- Settles O3: the turn is the handshake's (`State.nextTurn`), and `State.recv` accepts the byte presented. -/
theorem recvAppendsTheByte : Obligations.RecvAppendsTheByte := by
  unfold Obligations.RecvAppendsTheByte
  intro s b bs hturn hr hf hq
  have hu : s.nextTurn = .recv := by
    rcases hturn with h | ⟨h, he⟩
    · exact State.nextTurn_of_head? h
    · simp [State.nextTurn, h, he]
  rw [step_recv hu hr]
  rcases s.popped.recv_cases with ⟨-, hq' | hf'⟩ | ⟨b', bs', hq', -, e⟩
  · exact absurd (hq.symm.trans hq') (by simp)
  · exact absurd hf' hf
  · obtain ⟨rfl, rfl⟩ : b = b' ∧ bs = bs' := by simpa using hq.symm.trans hq'
    rw [e]
    rfl

/-- Settles O4: `step_status` names the next state. -/
theorem statusWriteSetsStatus : Obligations.StatusWriteSetsStatus := by
  unfold Obligations.StatusWriteSetsStatus
  intro s v hv hr
  rw [step_status (State.nextTurn_of_head? hv) hr]
  rfl

/-- Settles O5: the host's part of the turn (`State.hostSide`) stands with reset and without it. -/
theorem hostTurnsDriveTheLines : Obligations.HostTurnsDriveTheLines := by
  unfold Obligations.HostTurnsDriveTheLines
  intro s us u h hs hu
  have hnext : s.nextTurn = u := State.nextTurn_of_head? (by rw [hs]; rfl)
  have hhost : (s.popped.hostSide u).host = h := by
    rw [State.popped_cons hs]
    rcases hu with ⟨v, rfl, rfl⟩ | ⟨v, rfl, rfl⟩ | ⟨v, rfl, rfl⟩ | ⟨v, rfl, rfl⟩ | ⟨v, rfl, rfl⟩ | ⟨v, rfl, rfl⟩ <;> rfl
  have hne : u ≠ .block ∧ u ≠ .recv ∧ ∀ v, u ≠ .status v := by
    rcases hu with ⟨v, rfl, -⟩ | ⟨v, rfl, -⟩ | ⟨v, rfl, -⟩ | ⟨v, rfl, -⟩ | ⟨v, rfl, -⟩ | ⟨v, rfl, -⟩ <;>
      exact ⟨nofun, nofun, nofun⟩
  obtain ⟨hblock, hrecv, hstatus⟩ := hne
  by_cases hr : s.host.rst = true ∨ h.rst = true
  · have hrst : s.host.rst = true ∨ (s.popped.hostSide s.nextTurn).host.rst = true := by rwa [hnext, hhost]
    refine ⟨_, step_reset hrst, by rw [hnext]; exact hhost, fun h1 h2 => ?_⟩
    simp [h1, h2] at hr
  · simp only [not_or, Bool.not_eq_true] at hr
    obtain ⟨hr1, hr2⟩ := hr
    subst hnext
    refine ⟨_, step_line hblock hrecv hstatus hr1 (by rwa [hhost]), hhost, fun _ _ => ?_⟩
    rw [State.hostSide_eq, hhost]
    rfl

end Sys2Proof.Machine
end

section
/-! ## PROOFS. The invariant: it holds at reset, and every row and every turn keeps it -/

namespace Sys2Proof.Machine

variable {s t : State}

/-! ### Accepting a byte -/

/-- The state with a byte accepted and `bs` left in the host's queue. -/
def State.accept (s : State) (b : Byte) (bs : List Byte) : State :=
  { s with input := s.input ++ [b], host := { s.host with inq := bs } }

theorem State.recv_eq_accept {b : Byte} {bs : List Byte} (hq : s.host.inq = b :: bs) (hf : s.fsm ≠ .stopped) :
    s.recv = s.accept b bs := by
  simp only [State.recv, hq, if_neg hf]
  rfl

theorem State.recv_eq_or_accept (s : State) : s.recv = s ∨ ∃ b bs, s.host.inq = b :: bs ∧ s.recv = s.accept b bs := by
  rcases s.recv_cases with ⟨e, -⟩ | ⟨b, bs, hq, -, e⟩
  · exact .inl e
  · exact .inr ⟨b, bs, hq, e⟩

section Accept

variable (b : Byte) (bs : List Byte)

@[simp] theorem State.accept_avail : (s.accept b bs).avail = s.avail + 1 := by
  simp [State.accept, State.avail]

@[simp] theorem State.accept_fsm : (s.accept b bs).fsm = s.fsm := rfl
@[simp] theorem State.accept_frame : (s.accept b bs).frame = s.frame := rfl
@[simp] theorem State.accept_pos : (s.accept b bs).pos = s.pos := rfl

theorem State.accept_bytes {off n : Nat} (h : off + n ≤ s.avail) : (s.accept b bs).bytes off n = s.bytes off n :=
  bytes_append_stable _ _ h

theorem State.accept_memRead {off n : Nat} (h : off + n ≤ s.avail) :
    (s.accept b bs).memRead off n = s.memRead off n :=
  congrArg leNat (State.accept_bytes b bs h)

theorem State.accept_byteAt {off : Nat} (h : off < s.avail) : (s.accept b bs).byteAt off = s.byteAt off :=
  List.getElem?_append_left h

theorem State.FrameOpen.accept (h : s.FrameOpen) : (s.accept b bs).FrameOpen := by
  obtain ⟨hpos, hsync, hkind⟩ := h
  refine ⟨hpos, ?_, ?_⟩
  · rw [State.accept_avail]
    exact Nat.le_succ_of_le hsync
  · rw [State.accept_frame, State.accept_bytes b bs hsync]
    exact hkind

/-- The header length of an open frame is that of its kind, and the header's fields stand within it. -/
theorem State.FrameOpen.hl_ge (h : s.FrameOpen) : 12 ≤ s.frame.hl := by
  obtain ⟨-, -, ⟨-, hl, -⟩ | ⟨-, hl, -⟩⟩ := h <;> omega

theorem State.HeaderDecoded.accept (h : s.HeaderDecoded) (ho : s.FrameOpen) : (s.accept b bs).HeaderDecoded := by
  obtain ⟨hle, hend, hid, hlong, hshort⟩ := h
  have hhl : 12 ≤ s.frame.hl := ho.hl_ge
  refine ⟨?_, hend, ?_, fun hk => ?_, fun hk => ?_⟩
  · rw [State.accept_avail]
    exact Nat.le_succ_of_le hle
  · rw [State.accept_frame, State.accept_memRead b bs (by omega)]
    exact hid
  · rw [State.accept_frame, State.accept_memRead b bs (by omega)]
    exact hlong hk
  · rw [State.accept_frame, State.accept_memRead b bs (by omega)]
    exact hshort hk

theorem State.TextRun.accept (h : s.TextRun) (hpos : s.pos ≤ s.avail) : (s.accept b bs).TextRun := by
  obtain ⟨hk, hsync, htext⟩ := h
  refine ⟨hk, hsync, ?_⟩
  rw [State.accept_frame, State.accept_pos, State.accept_bytes b bs (by omega)]
  exact htext

end Accept

/-! ### The invariant by the control state -/

/-- What the invariant asks of the state in its control state. -/
def State.PhaseInv (s : State) : Prop :=
  match s.fsm with
  | .idle | .waitSync | .stopped => True
  | .textSkip => s.TextRun
  | .header => s.FrameOpen
  | .message => s.FrameOpen ∧ s.HeaderDecoded
  | .emit => s.tx.ocnt < 26

/-- What the invariant asks of the discard run (40_frame_scanner.md R103, R109). -/
def State.DiscardInv (s : State) : Prop :=
  0 < s.disc.cnt → (s.fsm = .waitSync ∨ s.fsm = .stopped) ∧ s.disc.start + s.disc.cnt = s.pos

theorem State.discardInv_of_cnt_eq_zero (h : s.disc.cnt = 0) : s.DiscardInv :=
  fun hc => absurd h (Nat.ne_of_gt hc)

theorem State.inv_of_phaseInv (harf : ∀ r : AttReg, r.inDomain (s.arf.get r) = true) (hpos : s.pos ≤ s.avail)
    (hocnt : s.tx.ocnt ≤ 26) (hdisc : s.DiscardInv) (hphase : s.PhaseInv) (hr : s.host.rst = true → s.applyReset = s) :
    s.Inv where
  arfInDomain := harf
  posLe := hpos
  ocntLe := hocnt
  emitting hf := by simpa only [State.PhaseInv, hf] using hphase
  opened hf := by
    rcases hf with hf | hf <;> simp only [State.PhaseInv, hf] at hphase
    · exact hphase
    · exact hphase.1
  decoded hf := by
    simp only [State.PhaseInv, hf] at hphase
    exact hphase.2
  text hf := by simpa only [State.PhaseInv, hf] using hphase
  discOpen hc := (hdisc hc).1
  discRun hc := (hdisc hc).2
  held := hr

/-- Where `rst` is low nothing is held at its reset value. -/
theorem State.inv_of_rst_low (hr : s.host.rst = false) (harf : ∀ r : AttReg, r.inDomain (s.arf.get r) = true)
    (hpos : s.pos ≤ s.avail) (hocnt : s.tx.ocnt ≤ 26) (hdisc : s.DiscardInv) (hphase : s.PhaseInv) : s.Inv :=
  State.inv_of_phaseInv harf hpos hocnt hdisc hphase fun hv => absurd (hr.symm.trans hv) (by decide)

theorem State.Inv.phaseInv (h : s.Inv) : s.PhaseInv := by
  unfold State.PhaseInv
  cases hf : s.fsm with
  | idle | waitSync | stopped => trivial
  | textSkip => exact h.text hf
  | header => exact h.opened (.inl hf)
  | message => exact ⟨h.opened (.inr hf), h.decoded hf⟩
  | emit => exact h.emitting hf

theorem State.Inv.discardInv (h : s.Inv) : s.DiscardInv := fun hc => ⟨h.discOpen hc, h.discRun hc⟩

/-- Outside the search no discard run is open. -/
theorem State.Inv.discard_cnt_eq_zero (h : s.Inv) (hw : s.fsm ≠ .waitSync) (hs : s.fsm ≠ .stopped) : s.disc.cnt = 0 := by
  by_contra hc
  rcases h.discOpen (Nat.pos_of_ne_zero hc) with hf | hf
  · exact hw hf
  · exact hs hf

theorem Attitude.firstViolation_eq_none_iff (a : Attitude) :
    a.firstViolation = none ↔ ∀ r : AttReg, r.inDomain (a.get r) = true := by
  have hall : ∀ r : AttReg, r ∈ AttReg.all := by rintro (_ | _ | _ | _ | _) <;> decide
  simp [Attitude.firstViolation, List.find?_eq_none, hall]

/-! ### Reset and the turns of the host -/

theorem State.applyReset_inv (s : State) : s.applyReset.Inv := by
  refine State.inv_of_phaseInv ?_ (Nat.zero_le _) (Nat.zero_le _) (State.discardInv_of_cnt_eq_zero rfl) trivial
    fun _ => rfl
  exact (Attitude.firstViolation_eq_none_iff Attitude.reset).mp (by decide +kernel)

/-- Settles O50: the power-on state is its own reset. -/
theorem invariantHoldsAtReset : Obligations.InvariantHoldsAtReset := State.reset.applyReset_inv

/-- The invariant does not speak of the host's side, but for a reset line that is newly raised. -/
theorem State.Inv.withHost (h : s.Inv) {v : HostSide} (hr : v.rst = true → s.host.rst = true) : (s.withHost v).Inv := by
  refine State.inv_of_phaseInv h.arfInDomain h.posLe h.ocntLe h.discardInv h.phaseInv fun hv => ?_
  exact congrArg (State.withHost · v) (h.held (hr hv))

theorem State.Inv.popped (h : s.Inv) : s.popped.Inv := h.withHost id

theorem State.Inv.withStatus (h : s.Inv) (hr : s.host.rst = false) (v : Status) : (s.withStatus v).Inv :=
  State.inv_of_rst_low hr h.arfInDomain h.posLe h.ocntLe h.discardInv h.phaseInv

theorem State.Inv.accept (h : s.Inv) (hr : s.host.rst = false) (b : Byte) (bs : List Byte) : (s.accept b bs).Inv := by
  refine State.inv_of_rst_low hr h.arfInDomain ?_ h.ocntLe h.discardInv ?_
  · rw [State.accept_avail]
    exact Nat.le_succ_of_le h.posLe
  · have hp := h.phaseInv
    cases hs : s.fsm with
    | idle | waitSync | stopped => simp only [State.PhaseInv, State.accept_fsm, hs]
    | textSkip =>
      simp only [State.PhaseInv, State.accept_fsm, hs] at hp ⊢
      exact hp.accept b bs h.posLe
    | header =>
      simp only [State.PhaseInv, State.accept_fsm, hs] at hp ⊢
      exact hp.accept b bs
    | message =>
      simp only [State.PhaseInv, State.accept_fsm, hs] at hp ⊢
      obtain ⟨ho, hd⟩ := hp
      exact ⟨ho.accept b bs, hd.accept b bs ho⟩
    | emit =>
      simp only [State.PhaseInv, State.accept_fsm, hs] at hp ⊢
      exact hp

theorem State.Inv.recv (h : s.Inv) (hr : s.host.rst = false) : s.recv.Inv := by
  rcases s.recv_eq_or_accept with e | ⟨b, bs, -, e⟩ <;> rw [e]
  · exact h
  · exact h.accept hr b bs

/-! ### The rows of the block -/

theorem State.memRead_lt {off n : Nat} (h : off + n ≤ s.avail) : s.memRead off n < 256 ^ n := by
  have hlt := leNat_lt (s.bytes off n)
  rwa [State.bytes_length h] at hlt

/-- A decoded header latches what the stream holds, and the frame's end as the sum of 30_encoding.md R75. -/
theorem State.toNat_headerField {off n : Nat} (h : s.frame.syncOff + off + n ≤ s.avail) (hn : 256 ^ n ≤ 2 ^ 16) :
    (BitVec.ofNat 16 (s.headerField off n)).toNat = s.memRead (s.frame.syncOff + off) n := by
  rw [BitVec.toNat_ofNat]
  exact Nat.mod_eq_of_lt (Nat.lt_of_lt_of_le (State.memRead_lt h) hn)

theorem State.decodeLong_headerDecoded (hk : s.frame.kind = .long) (hl : s.frame.hl = 28)
    (h : s.frame.syncOff + 28 ≤ s.avail) : s.decodeLong.HeaderDecoded := by
  refine ⟨?_, ?_, State.toNat_headerField (by omega) (by decide),
    fun _ => State.toNat_headerField (by omega) (by decide), fun hk' => absurd (hk.symm.trans hk') (by decide)⟩
  · exact hl ▸ h
  · exact hl ▸ rfl

theorem State.decodeShort_headerDecoded (hk : s.frame.kind = .short) (hl : s.frame.hl = 12)
    (h : s.frame.syncOff + 12 ≤ s.avail) : s.decodeShort.HeaderDecoded := by
  refine ⟨?_, ?_, State.toNat_headerField (by omega) (by decide),
    fun hk' => absurd (hk.symm.trans hk') (by decide), fun _ => State.toNat_headerField (by omega) (by decide)⟩
  · exact hl ▸ h
  · exact hl ▸ rfl

/-- A text byte at the cursor extends the run by one byte (R123). -/
theorem State.TextRun.next {b : Byte} (h : s.TextRun) (hb : s.byteAt s.pos = some b) (ht : textOk b = true) :
    (s.withPos (s.pos + 1)).TextRun := by
  obtain ⟨hk, hsync, htext⟩ := h
  refine ⟨hk, Nat.le_succ_of_le hsync, ?_⟩
  have hrun : s.bytes s.frame.syncOff (s.pos + 1 - s.frame.syncOff) =
      s.bytes s.frame.syncOff (s.pos - s.frame.syncOff) ++ [b] := by
    have hadd : s.frame.syncOff + (s.pos - s.frame.syncOff) = s.pos := by omega
    rw [show s.pos + 1 - s.frame.syncOff = s.pos - s.frame.syncOff + 1 by omega]
    simp only [State.bytes, List.take_add_one, List.getElem?_drop, hadd]
    rw [show s.input[s.pos]? = some b from hb]
    rfl
  intro c hc
  change c ∈ s.bytes s.frame.syncOff (s.pos + 1 - s.frame.syncOff) at hc
  rw [hrun, List.mem_append, List.mem_singleton] at hc
  rcases hc with hc | rfl
  · exact htext c hc
  · exact ht

/-- A row that ends where nothing of the frame counts any more: IDLE, WAIT_SYNC or STOPPED. -/
theorem State.Inv.leave (h : s.Inv) (harf : t.arf = s.arf) (hocnt : t.tx.ocnt ≤ 26) (hpos : t.pos ≤ t.avail)
    (hdisc : t.DiscardInv) (hf : t.fsm = .idle ∨ t.fsm = .waitSync ∨ t.fsm = .stopped) (hr : t.host.rst = false) :
    t.Inv := by
  refine State.inv_of_rst_low hr (by rw [harf]; exact h.arfInDomain) hpos hocnt hdisc ?_
  rcases hf with hf | hf | hf <;> simp only [State.PhaseInv, hf]

/-- A sync match ends the discard run and opens a frame at the cursor (40_frame_scanner.md R106). -/
theorem State.Inv.openFrame (h : s.Inv) (hr : s.host.rst = false) {k : FrameKind} {hl : Nat} {w : List Byte}
    (hw : s.syncHere w = true)
    (hk : (k = .long ∧ hl = 28 ∧ w = [0xAA, 0x44, 0x12]) ∨ (k = .short ∧ hl = 12 ∧ w = [0xAA, 0x44, 0x13])) :
    (s.openFrame k hl).Inv := by
  obtain ⟨-, hlen, rfl⟩ := (s.syncHere_iff w).mp hw
  rw [State.openFrame_eq]
  exact State.inv_of_rst_low hr h.arfInDomain h.posLe h.ocntLe (State.discardInv_of_cnt_eq_zero rfl) ⟨rfl, hlen, hk⟩

theorem State.Inv.openText (h : s.Inv) (hr : s.host.rst = false) (hw : s.syncHere [0x3C, 0x49, 0x4E] = true) :
    (((s.matchSync .infoText).withPos (s.pos + 3)).withFsm .textSkip).Inv := by
  obtain ⟨-, hlen, hsync⟩ := (s.syncHere_iff _).mp hw
  rw [State.matchSync_eq]
  refine State.inv_of_rst_low hr h.arfInDomain hlen h.ocntLe (State.discardInv_of_cnt_eq_zero rfl)
    ⟨rfl, Nat.le_refl _, ?_⟩
  intro b hb
  change b ∈ s.bytes s.pos (s.pos + 3 - s.pos) at hb
  rw [Nat.add_sub_cancel_left, hsync] at hb
  revert b
  decide

/-- The end of a header decode: MESSAGE with the frame still open. -/
theorem State.Inv.toMessage (h : s.Inv) (hf : s.fsm = .header) (harf : t.arf = s.arf) (htx : t.tx = s.tx)
    (hpos : t.pos ≤ t.avail) (hdisc : t.disc = s.disc) (htf : t.fsm = .message) (ho : t.FrameOpen)
    (hd : t.HeaderDecoded) (hr : t.host.rst = false) : t.Inv := by
  refine State.inv_of_rst_low hr (by rw [harf]; exact h.arfInDomain) hpos (by rw [htx]; exact h.ocntLe) ?_ ?_
  · exact State.discardInv_of_cnt_eq_zero (by rw [hdisc]; exact h.discard_cnt_eq_zero (by simp [hf]) (by simp [hf]))
  · simp only [State.PhaseInv, htf]
    exact ⟨ho, hd⟩

theorem State.Inv.decodeLong (h : s.Inv) (hr : s.host.rst = false) (hf : s.fsm = .header) (hk : s.frame.kind = .long)
    (hlen : s.frame.syncOff + 28 ≤ s.avail) : s.decodeLong.Inv := by
  have ho : s.FrameOpen := h.opened (.inl hf)
  have hl : s.frame.hl = 28 := by
    obtain ⟨-, -, ⟨-, hl, -⟩ | ⟨hk', -, -⟩⟩ := ho
    · exact hl
    · exact absurd (hk.symm.trans hk') (by decide)
  exact h.toMessage hf rfl rfl h.posLe rfl rfl ho (State.decodeLong_headerDecoded hk hl hlen) hr

theorem State.Inv.decodeShort (h : s.Inv) (hr : s.host.rst = false) (hf : s.fsm = .header)
    (hk : s.frame.kind = .short) (hlen : s.frame.syncOff + 12 ≤ s.avail) : s.decodeShort.Inv := by
  have ho : s.FrameOpen := h.opened (.inl hf)
  have hl : s.frame.hl = 12 := by
    obtain ⟨-, -, ⟨hk', -, -⟩ | ⟨-, hl, -⟩⟩ := ho
    · exact absurd (hk.symm.trans hk') (by decide)
    · exact hl
  exact h.toMessage hf rfl rfl h.posLe rfl rfl ho (State.decodeShort_headerDecoded hk hl hlen) hr

/-- A failed sync test extends the discard run, or starts one at the cursor (40_frame_scanner.md R103). -/
theorem State.Inv.discardByte (h : s.Inv) (hr : s.host.rst = false) {w : List Byte} (hw : s.syncHere w = true) :
    s.discardByte.Inv := by
  obtain ⟨hf, hlen, -⟩ := (s.syncHere_iff w).mp hw
  refine h.leave rfl h.ocntLe (t := s.discardByte) ?_ (fun _ => ⟨.inl hf, ?_⟩) (.inr (.inl hf)) hr
  · change s.pos + 1 ≤ s.avail
    omega
  · change (if s.disc.cnt = 0 then s.pos else s.disc.start) + (s.disc.cnt + 1) = s.pos + 1
    split
    · omega
    · have hrun := h.discRun (Nat.pos_of_ne_zero ‹_›)
      omega

theorem State.Inv.deliver (h : s.Inv) (hr : s.host.rst = false) (hf : s.fsm = .emit) (hc : s.tx.ocnt < 26) :
    s.deliver.Inv := by
  have hdisc : s.disc.cnt = 0 := h.discard_cnt_eq_zero (by simp [hf]) (by simp [hf])
  rw [State.deliver_eq s hc]
  refine State.inv_of_rst_low hr h.arfInDomain h.posLe hc (State.discardInv_of_cnt_eq_zero hdisc) ?_
  by_cases hlast : s.tx.ocnt + 1 = 26
  · simp only [State.PhaseInv, if_pos hlast]
  · simp only [State.PhaseInv, if_neg hlast, hf]
    omega

/-- Every row of the block keeps the invariant. -/
theorem State.BlockRow.inv (hrow : s.BlockRow t) (h : s.Inv) (hr : s.host.rst = false) : t.Inv := by
  cases hrow with
  | wait => exact h
  | ioFailure _ | stop _ | unknownKind _ _ =>
    exact h.leave rfl h.ocntLe h.posLe (fun hc => ⟨.inr rfl, h.discRun hc⟩) (.inr (.inr rfl)) hr
  | search _ => exact h.leave rfl h.ocntLe h.posLe (fun hc => ⟨.inl rfl, h.discRun hc⟩) (.inr (.inl rfl)) hr
  | openLong hw => exact h.openFrame hr hw (.inl ⟨rfl, rfl, rfl⟩)
  | openShort hw => exact h.openFrame hr hw (.inr ⟨rfl, rfl, rfl⟩)
  | openText hw => exact h.openText hr hw
  | discard b0 b1 b2 hw => exact h.discardByte hr hw
  | longHeader hf hk hlen => exact h.decodeLong hr hf hk hlen
  | shortHeader hf hk hlen => exact h.decodeShort hr hf hk hlen
  | textByte b hf hb ht =>
    have hdisc : s.disc.cnt = 0 := h.discard_cnt_eq_zero (by simp [hf]) (by simp [hf])
    have hlen : s.pos < s.avail := (List.getElem?_eq_some_iff.mp hb).1
    refine State.inv_of_rst_low hr h.arfInDomain hlen h.ocntLe (State.discardInv_of_cnt_eq_zero hdisc) ?_
    simp only [State.PhaseInv, State.withPos_fsm, hf]
    exact (h.text hf).next hb ht
  | textEnd hf =>
    have hdisc : s.disc.cnt = 0 := h.discard_cnt_eq_zero (by simp [hf]) (by simp [hf])
    exact h.leave rfl h.ocntLe h.posLe (State.discardInv_of_cnt_eq_zero hdisc) (.inl rfl) hr
  | abort e id hm _ =>
    obtain ⟨hf, hlen, -⟩ := (s.messageHere_iff id).mp hm
    have hdisc : s.disc.cnt = 0 := h.discard_cnt_eq_zero (by simp [hf]) (by simp [hf])
    exact h.leave rfl h.ocntLe hlen (State.discardInv_of_cnt_eq_zero hdisc) (.inl rfl) hr
  | commit cand id hm hd _ =>
    obtain ⟨hf, hlen, -⟩ := (s.messageHere_iff id).mp hm
    have hdisc : s.disc.cnt = 0 := h.discard_cnt_eq_zero (by simp [hf]) (by simp [hf])
    exact State.inv_of_rst_low hr ((Attitude.firstViolation_eq_none_iff cand).mp hd) hlen (Nat.zero_le _)
      (State.discardInv_of_cnt_eq_zero hdisc) (Nat.zero_lt_succ _)
  | deliver hf hc _ _ => exact h.deliver hr hf hc

/-- Settles O51, by the rows of a step: reset gives a state of the invariant, a host turn does not touch what it speaks of, and
the block's rows keep it one by one. -/
theorem everyStepKeepsTheInvariant : Obligations.EveryStepKeepsTheInvariant := by
  unfold Obligations.EveryStepKeepsTheInvariant
  intro s t h hstep
  have hp : s.popped.Inv := h.popped
  cases step_row hstep with
  | reset _ => exact State.applyReset_inv _
  | block hr hrow => exact hrow.inv hp hr
  | recv hr => exact hp.recv hr
  | status v hr _ => exact hp.withStatus hr v
  | line hr =>
    rw [State.hostSide_eq] at hr ⊢
    exact hp.withHost fun hv => absurd (hr.symm.trans hv) (by decide)

end Sys2Proof.Machine
end

section
/-! ## PROOFS. What no step of the block changes: configuration, STATUS, S and the host's side; ARF and the cursor -/

namespace Sys2Proof.Machine

variable {s t : State}

/-- The state elements that belong to the host, which no row of the block writes (10_state.md R25, 20_memory.md R64). -/
theorem State.BlockRow.host_frame (h : s.BlockRow t) :
    t.cfg = s.cfg ∧ t.status = s.status ∧ t.input = s.input ∧ t.host = s.host := by
  cases h with
  | openLong _ | openShort _ =>
    rw [State.openFrame_eq]
    exact ⟨rfl, rfl, rfl, rfl⟩
  | openText _ =>
    rw [State.matchSync_eq]
    exact ⟨rfl, rfl, rfl, rfl⟩
  | deliver _ hc _ _ =>
    rw [State.deliver_eq s hc]
    exact ⟨rfl, rfl, rfl, rfl⟩
  | _ => exact ⟨rfl, rfl, rfl, rfl⟩

/-- Settles O53, for each row of a block step (`blockStep_row`). -/
theorem blockStepsKeepTheHostsState : Obligations.BlockStepsKeepTheHostsState :=
  fun _ _ h => (blockStep_row h).host_frame

/-- Settles O54: only the handshake and reset write S, and only the handshake and a `present` turn the queue. -/
theorem acceptedBytesNeverChange : Obligations.AcceptedBytesNeverChange := by
  unfold Obligations.AcceptedBytesNeverChange
  intro s t hstep
  have kept {t : State} (hin : t.input = s.input) : s.host.rst = false → t.host.rst = false →
      ∀ a < s.avail, t.byteAt a = s.byteAt a := fun _ _ a _ => by rw [State.byteAt, hin, State.byteAt]
  have hqueue := s.hostSide_nextTurn_inq
  cases step_row hstep with
  | reset hrst =>
    refine ⟨.inr ⟨.inr ⟨hrst, rfl⟩, ?_⟩, fun h1 h2 => ?_, by rw [State.hostSide_eq]; rfl⟩
    · exact hqueue.symm.imp (fun ⟨_, e⟩ => e) id
    · rw [State.applyReset_host] at h2
      simp [h1, h2] at hrst
  | block _ hrow =>
    obtain ⟨hcfg, -, hin, hhost⟩ := hrow.host_frame
    exact ⟨.inr ⟨.inl hin, .inl (by rw [hhost]; rfl)⟩, kept hin, hcfg⟩
  | recv hr =>
    rcases s.popped.recv_eq_or_accept with e | ⟨b, bs, hq, e⟩ <;> rw [e]
    · exact ⟨.inr ⟨.inl rfl, .inl rfl⟩, kept rfl, rfl⟩
    · exact ⟨.inl ⟨b, bs, hq, rfl, rfl⟩, fun _ _ a ha => State.accept_byteAt (s := s.popped) b bs ha, rfl⟩
  | status v _ _ => exact ⟨.inr ⟨.inl rfl, .inl rfl⟩, kept rfl, rfl⟩
  | line _ =>
    have hin : (s.popped.hostSide s.nextTurn).input = s.input := by rw [State.hostSide_eq]; rfl
    refine ⟨.inr ⟨.inl hin, ?_⟩, kept hin, by rw [State.hostSide_eq]; rfl⟩
    exact hqueue.symm.imp (fun ⟨_, e⟩ => e) id

/-- A row of the block leaves ARF, or is the commit of a whole frame of an updating id (43_attitude_aggregator.md R170). -/
theorem State.BlockRow.arf_cases (h : s.BlockRow t) :
    t.arf = s.arf ∨ (s.fsm = .message ∧ s.frame.frameEnd ≤ s.avail ∧
      s.frame.msgId ∈ [(1465 : BitVec 16), 1708, 813] ∧ t.fsm = .emit) := by
  cases h with
  | commit cand id hm _ hu =>
    obtain ⟨hf, hlen, rfl⟩ := (s.messageHere_iff id).mp hm
    exact hu.imp id fun hid => ⟨hf, hlen, hid, rfl⟩
  | openLong _ | openShort _ =>
    rw [State.openFrame_eq]
    exact .inl rfl
  | openText _ =>
    rw [State.matchSync_eq]
    exact .inl rfl
  | deliver _ hc _ _ =>
    rw [State.deliver_eq s hc]
    exact .inl rfl
  | _ => exact .inl rfl

theorem State.recv_arf_pos (s : State) : s.recv.arf = s.arf ∧ s.recv.pos = s.pos := by
  rcases s.recv_eq_or_accept with e | ⟨b, bs, -, e⟩ <;> rw [e] <;> exact ⟨rfl, rfl⟩

/-- Settles O57: of the rows of a step only a commit and reset write ARF. -/
theorem onlyCommitsWriteTheAttitude : Obligations.OnlyCommitsWriteTheAttitude := by
  unfold Obligations.OnlyCommitsWriteTheAttitude
  intro s t hstep
  cases step_row hstep with
  | reset hrst => exact .inr (.inr ⟨hrst, rfl⟩)
  | block _ hrow => exact hrow.arf_cases.imp id .inl
  | recv _ => exact .inl s.popped.recv_arf_pos.1
  | status _ _ _ => exact .inl rfl
  | line _ =>
    rw [State.hostSide_eq]
    exact .inl rfl

/-- In MESSAGE the frame ends after the cursor, which stands at its first byte (10_state.md R24, 30_encoding.md R75). -/
theorem State.Inv.pos_le_frameEnd (h : s.Inv) (hf : s.fsm = .message) : s.pos ≤ s.frame.frameEnd := by
  obtain ⟨hpos, -, -⟩ := h.opened (.inr hf)
  obtain ⟨-, hend, -, -, -⟩ := h.decoded hf
  omega

theorem State.BlockRow.pos_le (hrow : s.BlockRow t) (h : s.Inv) : s.pos ≤ t.pos := by
  cases hrow with
  | abort _ id hm _ | commit _ id hm _ _ =>
    obtain ⟨hf, -, -⟩ := (s.messageHere_iff id).mp hm
    exact h.pos_le_frameEnd hf
  | openLong _ | openShort _ =>
    rw [State.openFrame_eq]
  | openText _ => exact Nat.le_add_right _ _
  | discard _ _ _ _ | textByte _ _ _ _ => exact Nat.le_succ _
  | deliver _ hc _ _ => rw [State.deliver_eq s hc]
  | _ => exact Nat.le_refl _

/-- Settles O58: the rows that move the cursor move it over bytes of the stream, in MESSAGE to the end of the open frame. -/
theorem cursorNeverDecreases : Obligations.CursorNeverDecreases := by
  unfold Obligations.CursorNeverDecreases
  intro s t h hr hstep hr'
  cases step_row hstep with
  | reset hrst =>
    rw [State.applyReset_host] at hr'
    simp [hr, hr'] at hrst
  | block _ hrow => exact hrow.pos_le h.popped
  | recv _ => exact Nat.le_of_eq s.popped.recv_arf_pos.2.symm
  | status _ _ _ => exact Nat.le_refl _
  | line _ =>
    rw [State.hostSide_eq]
    exact Nat.le_refl _

end Sys2Proof.Machine
end

section
/-! ## PROOFS. Accepting a byte and a block step in either order: each operation of the block reads only bytes that its
enabling condition asks for, so a byte accepted later changes nothing it sees (20_memory.md R66) -/

namespace Sys2Proof.Machine

variable {s t : State}

section Accept

variable (b : Byte) (bs : List Byte)

/-! ### The operations -/

theorem State.openFrame_accept (k : FrameKind) (hl : Nat) :
    (s.accept b bs).openFrame k hl = (s.openFrame k hl).accept b bs := by
  rw [State.openFrame_eq, State.openFrame_eq]
  rfl

theorem State.matchSync_accept (k : FrameKind) : (s.accept b bs).matchSync k = (s.matchSync k).accept b bs := by
  rw [State.matchSync_eq, State.matchSync_eq]
  rfl

theorem State.headerField_accept {off n : Nat} (h : s.frame.syncOff + off + n ≤ s.avail) :
    (s.accept b bs).headerField off n = s.headerField off n :=
  State.accept_memRead b bs h

theorem State.decodeLong_accept (h : s.frame.syncOff + 28 ≤ s.avail) :
    (s.accept b bs).decodeLong = s.decodeLong.accept b bs := by
  simp (disch := omega) only [State.decodeLong, State.headerField_accept]
  rfl

theorem State.decodeShort_accept (h : s.frame.syncOff + 12 ≤ s.avail) :
    (s.accept b bs).decodeShort = s.decodeShort.accept b bs := by
  simp (disch := omega) only [State.decodeShort, State.headerField_accept]
  rfl

theorem State.textStep_accept (h : s.pos < s.avail) : (s.accept b bs).textStep = s.textStep.accept b bs := by
  unfold State.textStep
  rw [State.accept_pos, State.accept_byteAt b bs h]
  cases s.byteAt s.pos with
  | none => rfl
  | some c => cases hc : textOk c <;> simp only [hc] <;> rfl

theorem State.unpack_accept (l : Layout) {a : Nat} (h : a + l.size ≤ s.avail) :
    (s.accept b bs).unpack l a = s.unpack l a := by
  induction l generalizing a with
  | nil => rfl
  | cons f fs ih =>
    simp only [Layout.size, List.map_cons, List.sum_cons] at h
    rw [State.unpack, State.unpack, State.accept_bytes b bs (by omega), ih (by unfold Layout.size; omega)]

theorem State.dispose_accept (cand : Attitude) : (s.accept b bs).dispose cand = (s.dispose cand).accept b bs := by
  unfold State.dispose
  cases cand.firstViolation <;> rfl

/-- A whole frame holds every byte its message arm reads. -/
theorem State.supported_accept (k : MsgKind) (upd : FieldRecord → Attitude → Attitude) (hd : s.HeaderDecoded)
    (hlen : s.frame.frameEnd ≤ s.avail) : (s.accept b bs).supported k upd = (s.supported k upd).accept b bs := by
  obtain ⟨-, hend, -, -, -⟩ := hd
  by_cases hsize : s.frame.msgLen.toNat < (s.layout k).size
  · have hsize' : (s.accept b bs).frame.msgLen.toNat < ((s.accept b bs).layout k).size := hsize
    rw [State.supported, State.supported, if_pos hsize, if_pos hsize']
    rfl
  · have hsize' : ¬ (s.accept b bs).frame.msgLen.toNat < ((s.accept b bs).layout k).size := hsize
    have hfields : (s.accept b bs).fieldsOf k = s.fieldsOf k :=
      State.unpack_accept b bs (s.layout k) (a := s.frame.syncOff + s.frame.hl) (by omega)
    rw [State.supported, State.supported, if_neg hsize, if_neg hsize', hfields]
    exact State.dispose_accept b bs _

theorem State.deliver_accept (hc : s.tx.ocnt < 26) : (s.accept b bs).deliver = s.deliver.accept b bs := by
  rw [State.deliver_eq s hc, State.deliver_eq (s.accept b bs) hc]
  rfl

/-! ### The conditions -/

theorem State.rowReady_accept (h : s.rowReady = true) : (s.accept b bs).rowReady = true := by
  unfold State.rowReady at *
  rw [State.accept_fsm]
  cases hf : s.fsm with
  | idle => rfl
  | waitSync | textSkip | header | message =>
    simp only [hf, decide_eq_true_eq, State.accept_avail] at h ⊢
    exact Nat.le_succ_of_le h
  | emit | stopped =>
    simp only [hf] at h ⊢
    exact h

theorem State.syncHere_accept (hr : s.rowReady = true) (w : List Byte) : (s.accept b bs).syncHere w = s.syncHere w := by
  rw [Bool.eq_iff_iff, State.syncHere_iff, State.syncHere_iff, State.accept_fsm]
  refine and_congr_right fun hf => ?_
  have hlen : s.pos + 3 ≤ s.avail := by simpa only [State.rowReady, hf, decide_eq_true_eq] using hr
  rw [State.accept_pos, State.accept_bytes b bs hlen, State.accept_avail]
  exact and_congr_left fun _ => iff_of_true (Nat.le_succ_of_le hlen) hlen

theorem State.messageHere_accept (hr : s.rowReady = true) (id : BitVec 16) :
    (s.accept b bs).messageHere id = s.messageHere id := by
  rw [Bool.eq_iff_iff, State.messageHere_iff, State.messageHere_iff, State.accept_fsm]
  refine and_congr_right fun hf => ?_
  have hlen : s.frame.frameEnd ≤ s.avail := by simpa only [State.rowReady, hf, decide_eq_true_eq] using hr
  rw [State.accept_avail]
  exact and_congr_left fun _ => iff_of_true (Nat.le_succ_of_le hlen) hlen

theorem State.fetch_accept (hr : s.rowReady = true) : (s.accept b bs).fetch = s.fetch := by
  have hfail : (s.accept b bs).failing = s.failing := rfl
  have hstop : (s.accept b bs).stopping = s.stopping := rfl
  unfold State.fetch
  rw [hfail, hstop, hr, State.rowReady_accept b bs hr, State.accept_fsm]
  cases hf : s.fsm with
  | waitSync =>
    have hlen : s.pos + 3 ≤ s.avail := by simpa only [State.rowReady, hf, decide_eq_true_eq] using hr
    simp only [State.accept_pos, State.accept_bytes b bs hlen]
  | _ => rfl

/-! ### The steps -/

theorem stepIf_accept {c c' : Bool} {u u' : State} (hc : c' = c) (hu : c = true → u' = u.accept b bs)
    (h : stepIf c u s = .next t) : stepIf c' u' (s.accept b bs) = .next (t.accept b bs) := by
  subst hc
  cases c' with
  | false =>
    obtain rfl : s = t := by simpa [stepIf_false rfl] using h
    rfl
  | true =>
    obtain rfl : u = t := by simpa [stepIf_true rfl] using h
    rw [stepIf_true rfl, hu rfl]

theorem State.Inv.supported_accept (h : s.Inv) {id : BitVec 16} (hm : s.messageHere id = true) (k : MsgKind)
    (upd : FieldRecord → Attitude → Attitude) : (s.accept b bs).supported k upd = (s.supported k upd).accept b bs := by
  obtain ⟨hf, hlen, -⟩ := (s.messageHere_iff id).mp hm
  exact State.supported_accept b bs k upd (h.decoded hf) hlen

theorem State.Inv.exec_accept (h : s.Inv) (hr : s.rowReady = true) {i : Instr} (he : exec i s = .next t) :
    exec i (s.accept b bs) = .next (t.accept b bs) := by
  cases i with
  | syncLong | syncShort =>
    exact stepIf_accept b bs (State.syncHere_accept b bs hr _) (fun _ => State.openFrame_accept b bs _ _) he
  | syncInfoText =>
    refine stepIf_accept b bs (State.syncHere_accept b bs hr _) (fun _ => ?_) he
    rw [State.matchSync_accept]
    rfl
  | syncNone b0 b1 b2 =>
    exact stepIf_accept b bs (congrArg (· && _) (State.syncHere_accept b bs hr _)) (fun _ => rfl) he
  | msg1462 | msg1457 | msg319 | msg1465 | msg508 | msg1708 | msg1382 | msg813 =>
    exact stepIf_accept b bs (State.messageHere_accept b bs hr _) (fun hm => h.supported_accept b bs hm _ _) he
  | msgUnsupported id =>
    exact stepIf_accept b bs (congrArg (· && _) (State.messageHere_accept b bs hr _)) (fun _ => rfl) he

/-- In HEADER and TEXT_SKIP the invariant gives the frame kind that the state is entered with, so the dispatch of R120 has its
bytes. -/
theorem State.Inv.headerDecode_accept (h : s.Inv) (hr : s.rowReady = true) (hf : s.fsm = .textSkip ∨ s.fsm = .header) :
    (s.accept b bs).headerDecode = s.headerDecode.accept b bs := by
  unfold State.headerDecode
  rw [State.accept_frame, State.accept_fsm, State.accept_avail]
  rcases hf with hf | hf <;> simp only [State.rowReady, hf, decide_eq_true_eq] at hr
  · obtain ⟨hk, -, -⟩ := h.text hf
    simp only [hk, hf, if_true]
    exact State.textStep_accept b bs hr
  · obtain ⟨-, -, ⟨hk, hl, -⟩ | ⟨hk, hl, -⟩⟩ := h.opened (.inl hf) <;> rw [hl] at hr <;>
      simp only [hk, hf, hr, Nat.le_succ_of_le hr, and_self, if_true]
    · exact State.decodeLong_accept b bs hr
    · exact State.decodeShort_accept b bs hr

theorem State.Inv.control_accept (h : s.Inv) (hfail : s.failing = false) (hstop : s.stopping = false)
    (hr : s.rowReady = true) : (s.accept b bs).control = s.control.accept b bs := by
  have hfail' : (s.accept b bs).failing = false := hfail
  have hstop' : (s.accept b bs).stopping = false := hstop
  simp only [State.control, hfail, hfail', hstop, hstop', hr, State.rowReady_accept b bs hr, State.accept_fsm]
  cases hf : s.fsm with
  | textSkip => exact h.headerDecode_accept b bs hr (.inl hf)
  | header => exact h.headerDecode_accept b bs hr (.inr hf)
  | emit =>
    simp only [State.rowReady, hf, Bool.and_eq_true, decide_eq_true_eq] at hr
    exact State.deliver_accept b bs hr.1
  | _ => rfl

theorem State.Inv.blockStep_accept (h : s.Inv) (hfail : s.failing = false) (hstop : s.stopping = false)
    (hr : s.rowReady = true) (hb : blockStep s = .next t) : blockStep (s.accept b bs) = .next (t.accept b bs) := by
  unfold blockStep at hb ⊢
  rw [State.fetch_accept b bs hr]
  cases hi : s.fetch with
  | some i =>
    rw [hi] at hb
    exact h.exec_accept b bs hr hb
  | none =>
    rw [hi] at hb
    cases hb
    exact congrArg Host.Outcome.next (h.control_accept b bs hfail hstop hr)

end Accept

/-- With a quiet host no step of an invariant state stops the block: R229 and R230 need a line, R253 an unknown kind. -/
theorem State.BlockRow.fsm_ne_stopped (hrow : s.BlockRow t) (h : s.Inv) (hfail : s.failing = false)
    (hstop : s.stopping = false) (hf : s.fsm ≠ .stopped) : t.fsm ≠ .stopped := by
  cases hrow with
  | wait | discard _ _ _ _ | textByte _ _ _ _ => exact hf
  | ioFailure hfail' => simp [hfail] at hfail'
  | stop hstop' => simp [hstop] at hstop'
  | unknownKind hf hk =>
    rcases hf with hf | hf
    · obtain ⟨hk', -, -⟩ := h.text hf
      simp [hk] at hk'
    · obtain ⟨-, -, ⟨hk', -, -⟩ | ⟨hk', -, -⟩⟩ := h.opened (.inl hf) <;> simp [hk] at hk'
  | deliver hf hc _ _ =>
    rw [State.deliver_eq s hc]
    simp only [hf]
    split <;> decide
  | _ => exact nofun

/-- A quiet host raises no line the block would take before its own row. -/
theorem HostSide.Quiet.not_failing_not_stopping (h : s.host.Quiet) : s.failing = false ∧ s.stopping = false := by
  obtain ⟨-, hstop, hsrc, hsink⟩ := h
  simp [State.failing, State.stopping, hstop, hsrc, hsink]

/-- Settles O60: a block step that is enabled reads only bytes already accepted, and does not stop the block, so the handshake
takes the same byte before it and after it. -/
theorem acceptingAByteCommutesWithTheBlock : Obligations.AcceptingAByteCommutesWithTheBlock := by
  unfold Obligations.AcceptingAByteCommutesWithTheBlock
  intro s t h hquiet hen hstep
  obtain ⟨hfail, hstop⟩ := hquiet.not_failing_not_stopping
  have hready : s.rowReady = true := by simpa [State.blockEnabled, hfail, hstop] using hen
  have hf : s.fsm ≠ .stopped := fun hf => by simp [State.rowReady, hf] at hready
  have hrow := blockStep_row hstep
  obtain ⟨-, -, -, hhost⟩ := hrow.host_frame
  cases hq : s.host.inq with
  | nil =>
    have hs : s.recv = s := by simp only [State.recv, hq]
    have ht : t.recv = t := by simp only [State.recv, hhost, hq]
    rw [hs, ht]
    exact hstep
  | cons b bs =>
    rw [State.recv_eq_accept hq hf,
      State.recv_eq_accept (hhost ▸ hq) (hrow.fsm_ne_stopped h hfail hstop hf)]
    exact h.blockStep_accept b bs hfail hstop hready hstep

end Sys2Proof.Machine
end

section
/-! ## PROOFS. The output and the event sequence: by what each row of the block makes them grow, and that nothing else does -/

namespace Sys2Proof.Machine

variable {s t : State}

/-! ### The events of the taxonomy -/

/-- A code of 60_exceptions.md R250 that an event can carry, and a field that is an attitude register's index (R251). -/
def Event.InTaxonomy (e : Event) : Prop := e.code ∈ [(1 : BitVec 4), 2, 3, 4, 6, 7] ∧ e.field.toNat ≤ 4

theorem AttReg.index_le (r : AttReg) : r.index.toNat ≤ 4 := by
  cases r <;> decide

theorem Event.framing_inTaxonomy (d : DiscardRun) : (Event.framing d).InTaxonomy :=
  ⟨by simp [Event.framing], Nat.zero_le 4⟩

theorem Event.unknownHeaderKind_inTaxonomy (f : FrameLatches) : (Event.unknownHeaderKind f).InTaxonomy :=
  ⟨by simp [Event.unknownHeaderKind], Nat.zero_le 4⟩

theorem Event.unsupported_inTaxonomy (f : FrameLatches) : (Event.unsupported f).InTaxonomy :=
  ⟨by simp [Event.unsupported], Nat.zero_le 4⟩

theorem Event.outOfRange_inTaxonomy (r : AttReg) (f : FrameLatches) : (Event.outOfRange r f).InTaxonomy :=
  ⟨by simp [Event.outOfRange], r.index_le⟩

theorem Event.lengthMismatch_inTaxonomy (f : FrameLatches) : (Event.lengthMismatch f).InTaxonomy :=
  ⟨by simp [Event.lengthMismatch], Nat.zero_le 4⟩

theorem Event.ioFailure_inTaxonomy (pos : Nat) (src sink : Bool) : (Event.ioFailure pos src sink).InTaxonomy :=
  ⟨by simp [Event.ioFailure], Nat.zero_le 4⟩

/-! ### The event port -/

theorem State.evtOut_of_events_eq (h : t.events = s.events) : s.evtOut t = none := by
  simp [State.evtOut, h]

theorem State.evtOut_of_events_append {e : Event} (h : t.events = s.events ++ [e]) : s.evtOut t = some e := by
  simp [State.evtOut, h]

/-! ### The rows of the block -/

/-- A sync match raises the FramingFault of an open discard run, or nothing (40_frame_scanner.md R107). -/
theorem State.framing_events_cases (s : State) :
    s.events ++ (if 0 < s.disc.cnt then [Event.framing s.disc] else []) = s.events ∨
      ∃ e : Event, e.InTaxonomy ∧
        s.events ++ (if 0 < s.disc.cnt then [Event.framing s.disc] else []) = s.events ++ [e] := by
  split
  · exact .inr ⟨_, Event.framing_inTaxonomy _, rfl⟩
  · exact .inl (List.append_nil _)

/-- A row raises at most one event: the end of a discard run, a frame abort or a fatal fault (60_exceptions.md R250). -/
theorem State.BlockRow.events_cases (h : s.BlockRow t) :
    t.events = s.events ∨ ∃ e : Event, e.InTaxonomy ∧ t.events = s.events ++ [e] := by
  cases h with
  | ioFailure _ => exact .inr ⟨_, Event.ioFailure_inTaxonomy .., rfl⟩
  | unknownKind _ _ => exact .inr ⟨_, Event.unknownHeaderKind_inTaxonomy _, rfl⟩
  | abort e _ _ he =>
    refine .inr ⟨e, ?_, rfl⟩
    rcases he with rfl | rfl | ⟨r, rfl⟩
    · exact Event.unsupported_inTaxonomy _
    · exact Event.lengthMismatch_inTaxonomy _
    · exact Event.outOfRange_inTaxonomy r _
  | openLong _ | openShort _ =>
    rw [State.openFrame_eq]
    exact s.framing_events_cases
  | openText _ =>
    rw [State.matchSync_eq]
    exact s.framing_events_cases
  | deliver _ hc _ _ =>
    rw [State.deliver_eq s hc]
    exact .inl rfl
  | _ => exact .inl rfl

/-- A row leaves O, or is the delivery of the record's next byte to a ready sink (45_bridge_loop.md R227). -/
theorem State.BlockRow.out_cases (h : s.BlockRow t) :
    t.out = s.out ∨ (s.fsm = .emit ∧ s.failing = false ∧ s.host.outReady = true ∧
      ∃ b, s.tx.obuf.toList[s.tx.ocnt]? = some b ∧ t.out = s.out ++ [b]) := by
  cases h with
  | deliver hf hc hr hn =>
    rw [State.deliver_eq s hc]
    exact .inr ⟨hf, hn, hr, _, by simp [hc], rfl⟩
  | openLong _ | openShort _ =>
    rw [State.openFrame_eq]
    exact .inl rfl
  | openText _ =>
    rw [State.matchSync_eq]
    exact .inl rfl
  | _ => exact .inl rfl

/-! ### The step -/

theorem State.recv_out_events (s : State) : s.recv.out = s.out ∧ s.recv.events = s.events := by
  rcases s.recv_eq_or_accept with e | ⟨b, bs, -, e⟩ <;> rw [e] <;> exact ⟨rfl, rfl⟩

theorem State.hostSide_out_events (s : State) (u : Turn) :
    (s.hostSide u).out = s.out ∧ (s.hostSide u).events = s.events := by
  rw [State.hostSide_eq]
  exact ⟨rfl, rfl⟩

/-- A step leaves O and the events, or is a row of the block, taken without reset (60_exceptions.md R261). -/
theorem State.StepRow.block_or_out_events (h : s.StepRow t) :
    (t.out = s.out ∧ t.events = s.events) ∨ (s.host.rst = false ∧ s.popped.BlockRow t) := by
  cases h with
  | reset _ | line _ => exact .inl (s.popped.hostSide_out_events _)
  | block hr hrow => exact .inr ⟨hr, hrow⟩
  | recv _ => exact .inl s.popped.recv_out_events
  | status _ _ _ => exact .inl ⟨rfl, rfl⟩

/-- Settles O55: only the rows of the block make O or the events grow (`State.StepRow.block_or_out_events`), and each by at most
one element (`State.BlockRow.out_cases`, `State.BlockRow.events_cases`). -/
theorem outputAndEventsOnlyGrow : Obligations.OutputAndEventsOnlyGrow := by
  unfold Obligations.OutputAndEventsOnlyGrow
  intro s t hstep
  rcases (step_row hstep).block_or_out_events with ⟨hout, hevents⟩ | ⟨hr, hrow⟩
  · exact ⟨.inl hout, fun _ => hevents, .inl ⟨hevents, State.evtOut_of_events_eq hevents⟩⟩
  · obtain ⟨-, -, -, hhost⟩ := hrow.host_frame
    have hr' : t.host.rst = false := by rw [hhost, State.popped_rst, hr]
    refine ⟨hrow.out_cases.imp_right ?_, fun hrst => by simp [hr, hr'] at hrst, ?_⟩
    · rintro ⟨hf, hn, hready, b, hb, hout⟩
      exact ⟨hf, hready, b, hb, (s.outData_eq_some b).mpr ⟨hf, hn, hr, hb⟩, hout⟩
    · refine hrow.events_cases.imp (fun hevents => ⟨hevents, State.evtOut_of_events_eq hevents⟩) ?_
      rintro ⟨e, ⟨hcode, hfield⟩, hevents⟩
      exact ⟨e, hevents, State.evtOut_of_events_append hevents, hcode, hfield⟩

end Sys2Proof.Machine
end

section
/-! ## PROOFS. Decode and encode: each is the other's inverse on well-formed instructions -/

namespace Sys2Proof

/-! ### Little-endian bytes -/

theorem leNat_leBytes (n v : Nat) : leNat (leBytes n v) = v % 256 ^ n := by
  induction n generalizing v with
  | zero => simp [leBytes, leNat, Nat.mod_one]
  | succ n ih =>
    rw [Nat.pow_succ', Nat.mod_mul, leBytes, leNat, ih, BitVec.toNat_ofNat]

theorem leBytes_leNat (bs : List Byte) : leBytes bs.length (leNat bs) = bs := by
  induction bs with
  | nil => rfl
  | cons b bs ih =>
    have hb : b.toNat < 256 := b.isLt
    have hhead : BitVec.ofNat 8 (b.toNat + 256 * leNat bs) = b := by
      apply BitVec.eq_of_toNat_eq
      rw [BitVec.toNat_ofNat]
      omega
    have htail : (b.toNat + 256 * leNat bs) / 256 = leNat bs := by omega
    rw [List.length_cons, leBytes, leNat, hhead, htail, ih]

/-- A message id is the value of its two bytes (30_encoding.md R80), and the two bytes those of the id they hold. -/
theorem ofNat_leNat_idBytes (id : BitVec 16) : BitVec.ofNat 16 (leNat (leBytes 2 id.toNat)) = id := by
  have hid : id.toNat < 256 ^ 2 := id.isLt
  rw [leNat_leBytes, Nat.mod_eq_of_lt hid, BitVec.ofNat_toNat, BitVec.setWidth_eq]

theorem idBytes_ofNat_leNat (lo hi : Byte) : leBytes 2 (BitVec.ofNat 16 (leNat [lo, hi])).toNat = [lo, hi] := by
  have hid : leNat [lo, hi] < 2 ^ 16 := by simpa using leNat_lt [lo, hi]
  rw [BitVec.toNat_ofNat, Nat.mod_eq_of_lt hid]
  exact leBytes_leNat [lo, hi]

/-! ### The rows -/

theorem notSyncWord_iff (b0 b1 b2 : Byte) :
    notSyncWord b0 b1 b2 = true ↔ ¬(b0 = 0xAA ∧ b1 = 0x44 ∧ b2 = 0x12) ∧ ¬(b0 = 0xAA ∧ b1 = 0x44 ∧ b2 = 0x13) ∧
      ¬(b0 = 0x3C ∧ b1 = 0x49 ∧ b2 = 0x4E) := by
  simp only [notSyncWord, syncWords, Bool.not_eq_true', List.contains_eq_mem, decide_eq_false_iff_not, List.mem_cons,
    List.cons.injEq, List.not_mem_nil, and_true, or_false, not_or]

theorem notSupportedId_iff (id : BitVec 16) :
    notSupportedId id = true ↔ id ≠ 1462 ∧ id ≠ 1457 ∧ id ≠ 319 ∧ id ≠ 1465 ∧ id ≠ 508 ∧ id ≠ 1708 ∧ id ≠ 1382 ∧
      id ≠ 813 := by
  simp only [notSupportedId, supportedIds, Bool.not_eq_true', List.contains_eq_mem, decide_eq_false_iff_not, List.mem_cons,
    List.not_mem_nil, or_false, not_or, ne_eq]

/-- `i` is the row that the bytes `w` select at level `l`. -/
def Instr.IsRowOf (i : Instr) (l : Level) (w : List Byte) : Prop := i.wf = true ∧ i.level = l ∧ encode i = w

/-- Every window selects a row: one of the three, or the default row where it is none of their words (R70, R71). -/
theorem decodeSync_isRowOf (b0 b1 b2 : Byte) : (decodeSync b0 b1 b2).IsRowOf .sync [b0, b1, b2] := by
  unfold decodeSync
  split
  · obtain ⟨rfl, rfl, rfl⟩ := ‹_ ∧ _›
    exact ⟨rfl, rfl, rfl⟩
  split
  · obtain ⟨rfl, rfl, rfl⟩ := ‹_ ∧ _›
    exact ⟨rfl, rfl, rfl⟩
  split
  · obtain ⟨rfl, rfl, rfl⟩ := ‹_ ∧ _›
    exact ⟨rfl, rfl, rfl⟩
  · exact ⟨(notSyncWord_iff b0 b1 b2).mpr ⟨‹_›, ‹_›, ‹_›⟩, rfl, rfl⟩

/-- Every id selects a row: one of the eight, or the default row where it is none of their ids (R80). -/
theorem decodeId_isRowOf (id : BitVec 16) : (decodeId id).IsRowOf .msgId (leBytes 2 id.toNat) := by
  unfold decodeId
  iterate 8
    split
    · subst id
      exact ⟨rfl, rfl, rfl⟩
  exact ⟨(notSupportedId_iff id).mpr ⟨‹_›, ‹_›, ‹_›, ‹_›, ‹_›, ‹_›, ‹_›, ‹_›⟩, rfl, rfl⟩

theorem decodeSync_of_notSyncWord {b0 b1 b2 : Byte} (h : notSyncWord b0 b1 b2 = true) :
    decodeSync b0 b1 b2 = .syncNone b0 b1 b2 := by
  obtain ⟨hlong, hshort, htext⟩ := (notSyncWord_iff b0 b1 b2).mp h
  rw [decodeSync, if_neg hlong, if_neg hshort, if_neg htext]

theorem decodeId_of_notSupportedId {id : BitVec 16} (h : notSupportedId id = true) :
    decodeId id = .msgUnsupported id := by
  obtain ⟨h1, h2, h3, h4, h5, h6, h7, h8⟩ := (notSupportedId_iff id).mp h
  rw [decodeId, if_neg h1, if_neg h2, if_neg h3, if_neg h4, if_neg h5, if_neg h6, if_neg h7, if_neg h8]

/-! ### The two directions -/

/-- What the decoder answers is a row of its level, selected by the first bytes. -/
theorem isRowOf_of_decode {l : Level} {bs rest : List Byte} {i : Instr} (h : decode l bs = .ok (i, rest)) :
    ∃ w, i.IsRowOf l w ∧ bs = w ++ rest := by
  unfold decode at h
  split at h
  · next b0 b1 b2 rest' =>
    cases h
    exact ⟨[b0, b1, b2], decodeSync_isRowOf b0 b1 b2, rfl⟩
  · next lo hi rest' =>
    cases h
    have hrow := decodeId_isRowOf (BitVec.ofNat 16 (leNat [lo, hi]))
    rw [idBytes_ofNat_leNat] at hrow
    exact ⟨[lo, hi], hrow, rfl⟩
  · cases h

theorem wf_of_decode {l : Level} {bs rest : List Byte} {i : Instr} (h : decode l bs = .ok (i, rest)) : i.wf = true := by
  obtain ⟨w, ⟨hwf, -, -⟩, -⟩ := isRowOf_of_decode h
  exact hwf

/-- The decoder reads back every well-formed instruction. The default rows need their well-formedness: a window or an id of
another row would be read as that row. -/
theorem decode_encode {i : Instr} (hwf : i.wf = true) (rest : List Byte) :
    decode i.level (encode i ++ rest) = .ok (i, rest) := by
  cases i with
  | syncNone b0 b1 b2 => exact congrArg (fun i => Except.ok (i, rest)) (decodeSync_of_notSyncWord hwf)
  | msgUnsupported id =>
    have hid : decodeId (BitVec.ofNat 16 (leNat (leBytes 2 id.toNat))) = .msgUnsupported id := by
      rw [ofNat_leNat_idBytes, decodeId_of_notSupportedId hwf]
    exact congrArg (fun i => Except.ok (i, rest)) hid
  | _ => rfl

/-- Settles O48: `isRowOf_of_decode` one way, `decode_encode` the other. -/
theorem decodeAndEncodeAgree : Obligations.DecodeAndEncodeAgree := by
  unfold Obligations.DecodeAndEncodeAgree
  intro l bs rest i
  constructor
  · intro h
    obtain ⟨w, ⟨hwf, hlevel, rfl⟩, hbs⟩ := isRowOf_of_decode h
    exact ⟨hwf, hlevel, hbs⟩
  · rintro ⟨hwf, rfl, rfl⟩
    exact decode_encode hwf rest

/-- A table word decodes to the well-formed instruction whose encoding its bytes are. -/
theorem decodeTableWord_of_encode {i : Instr} {nbits w : Nat} (hwf : i.wf = true)
    (hlevel : tableLevel nbits = some i.level) (hbytes : tableWordBytes i.level w = encode i) :
    decodeTableWord nbits w = some i := by
  have hdec : decode i.level (encode i) = .ok (i, []) := by simpa using decode_encode hwf []
  simp only [decodeTableWord, hlevel, hbytes, hdec]

/-- Settles O49: each word's bytes are the encoding of its row. -/
theorem tableWordsDecodeToTheirRows : Obligations.TableWordsDecodeToTheirRows := by
  unfold Obligations.TableWordsDecodeToTheirRows
  refine ⟨?_, ?_, ?_, ?_, ?_, ?_, ?_, ?_, ?_⟩ <;> exact decodeTableWord_of_encode (by decide) rfl (by decide)

end Sys2Proof

namespace Sys2Proof.Machine

variable {s : State} {i : Instr} {rest : List Byte}

/-- With a quiet host, a state whose own row is ready fetches what its bytes decode to (30_encoding.md R90). -/
theorem State.fetch_of_waitSync (hq : s.host.Quiet) (hf : s.fsm = .waitSync) (hlen : s.pos + 3 ≤ s.avail)
    (hdec : decode .sync (s.bytes s.pos 3) = .ok (i, rest)) : s.fetch = some i := by
  obtain ⟨hfail, hstop⟩ := hq.not_failing_not_stopping
  simp [State.fetch, hfail, hstop, State.rowReady, hf, hlen, hdec]

theorem State.fetch_of_message (hq : s.host.Quiet) (hf : s.fsm = .message) (hlen : s.frame.frameEnd ≤ s.avail)
    (hdec : decode .msgId (leBytes 2 s.frame.msgId.toNat) = .ok (i, rest)) : s.fetch = some i := by
  obtain ⟨hfail, hstop⟩ := hq.not_failing_not_stopping
  simp [State.fetch, hfail, hstop, State.rowReady, hf, hlen, hdec]

/-- A block turn runs the instruction that is fetched once the turn is off the schedule. -/
theorem step_of_fetch (hq : s.host.Quiet) (hturn : s.BlockTurn) (hi : s.popped.fetch = some i) :
    step s = exec i s.popped := by
  obtain ⟨hr, -, -, -⟩ := hq
  rw [step_blockTurn hturn hr]
  simp only [blockStep, hi]

/-- Settles O18: the fetch answers what the bytes decode to, and what the decoder answers is well-formed. -/
theorem stepRunsTheDecodedInstruction : Obligations.StepRunsTheDecodedInstruction := by
  unfold Obligations.StepRunsTheDecodedInstruction
  refine ⟨fun s i rest hq hturn hf hlen hdec => ?_, fun s i rest hq hturn hf hlen hdec => ?_⟩
  · exact ⟨wf_of_decode hdec, step_of_fetch hq hturn (State.fetch_of_waitSync (s := s.popped) hq hf hlen hdec)⟩
  · exact ⟨wf_of_decode hdec, step_of_fetch hq hturn (State.fetch_of_message (s := s.popped) hq hf hlen hdec)⟩

end Sys2Proof.Machine
end

section
/-! ## PROOFS. The InfoText measurement: one byte of a run, and the whole run -/

namespace Sys2Proof.Machine

variable {s : State}

/-- Reading a byte at a time: the first byte is the one at the offset, the others are read from the next offset. -/
theorem State.bytes_succ_eq_cons {off n : Nat} {x : Byte} {xs : List Byte} (h : s.bytes off (n + 1) = x :: xs) :
    s.byteAt off = some x ∧ s.bytes (off + 1) n = xs := by
  have hlt : off < s.input.length := by
    by_contra hge
    rw [State.bytes, List.drop_eq_nil_of_le (Nat.le_of_not_lt hge)] at h
    simp at h
  rw [State.bytes, List.drop_eq_getElem_cons hlt, List.take_succ_cons, List.cons.injEq] at h
  obtain ⟨hx, hxs⟩ := h
  exact ⟨List.getElem?_eq_some_iff.mpr ⟨hlt, hx⟩, hxs⟩

/-- In TEXT_SKIP with a byte at the cursor, a quiet host and nothing scheduled, a step is the measurement's (R123). -/
theorem step_textSkip {b : Byte} (hq : s.host.Quiet) (hsched : s.host.sched = []) (hf : s.fsm = .textSkip)
    (hk : s.frame.kind = .infoText) (hb : s.byteAt s.pos = some b) : step s = .next s.textStep := by
  obtain ⟨hfail, hstop⟩ := hq.not_failing_not_stopping
  have hlen : s.pos + 1 ≤ s.avail := (List.getElem?_eq_some_iff.mp hb).1
  have hready : s.rowReady = true := by simpa only [State.rowReady, hf, decide_eq_true_eq] using hlen
  have hturn : s.BlockTurn := .inr ⟨hsched, by simp [State.blockEnabled, hready]⟩
  have hfetch : s.fetch = none := by simp [State.fetch, hf]
  obtain ⟨hr, -, -, -⟩ := hq
  rw [step_blockTurn hturn hr, State.popped_nil hsched]
  simp [blockStep, hfetch, State.control, hfail, hstop, hready, hf, State.headerDecode, hk]

theorem State.textStep_of_text {b : Byte} (hb : s.byteAt s.pos = some b) (ht : b.toNat < 0x80) :
    s.textStep = { s with pos := s.pos + 1 } := by
  simp only [State.textStep, hb, textOk, ht, decide_true, if_true]
  rfl

theorem State.textStep_of_not_text {b : Byte} (hb : s.byteAt s.pos = some b) (ht : 0x80 ≤ b.toNat) :
    s.textStep = { s with frame := { s.frame with hl := s.pos - s.frame.syncOff }, fsm := .idle } := by
  simp only [State.textStep, hb, textOk, Nat.not_lt.mpr ht, decide_false, Bool.false_eq_true, if_false]
  rfl

/-- Settles O16, by induction on the run: a text byte moves the cursor to the rest of the run, whose end counts from the same
sync; the byte after the run ends it. -/
theorem infoTextRunIsMeasured : Obligations.InfoTextRunIsMeasured := by
  unfold Obligations.InfoTextRunIsMeasured
  intro s ts b hq hsched hf hk hbytes htext hend
  induction ts generalizing s with
  | nil =>
    obtain ⟨hb, -⟩ := State.bytes_succ_eq_cons hbytes
    simp only [List.length_nil, stepN, step_textSkip hq hsched hf hk hb, State.textStep_of_not_text hb hend, Nat.add_zero]
  | cons x xs ih =>
    obtain ⟨hx, hrest⟩ := State.bytes_succ_eq_cons hbytes
    have hstep : step s = .next { s with pos := s.pos + 1 } := by
      rw [step_textSkip hq hsched hf hk hx, State.textStep_of_text hx (htext x List.mem_cons_self)]
    have hrun := ih { s with pos := s.pos + 1 } hq hsched hf hk hrest fun y hy => htext y (List.mem_cons_of_mem x hy)
    rw [List.length_cons, stepN, hstep]
    simpa only [Nat.add_assoc, Nat.add_comm 1] using hrun

end Sys2Proof.Machine
end

section
/-! ## PROOFS. Bit patterns of binary64: the three fields of a pattern, and the value they are -/

namespace Sys2Proof

/-- A 64-bit pattern is its sign bit, its 11 exponent bits and its 52 fraction bits (30_encoding.md R77). -/
structure HasFields (u : BitVec 64) (s : Bool) (e f : Nat) : Prop where
  exp_lt : e < 2048
  frac_lt : f < 2 ^ 52
  toNat_eq : u.toNat = (if s then 2 ^ 63 else 0) + (e * 2 ^ 52 + f)

theorem getLsbD_63 (u : BitVec 64) : u.getLsbD 63 = decide (2 ^ 63 ≤ u.toNat) :=
  (BitVec.msb_eq_getLsbD_last u).symm.trans (BitVec.msb_eq_decide u)

theorem hasFields (u : BitVec 64) : HasFields u (u.getLsbD 63) (u.toNat / 2 ^ 52 % 2048) (u.toNat % 2 ^ 52) where
  exp_lt := Nat.mod_lt _ (by decide)
  frac_lt := Nat.mod_lt _ (by decide)
  toNat_eq := by
    have hu : u.toNat < 2 ^ 64 := u.isLt
    rw [getLsbD_63]
    simp only [decide_eq_true_eq]
    split <;> omega

namespace HasFields

variable {u : BitVec 64} {s : Bool} {e f : Nat}

theorem sign_eq (h : HasFields u s e f) : u.getLsbD 63 = s := by
  obtain ⟨he, hf, hu⟩ := h
  rw [getLsbD_63, hu]
  cases s with
  | false => exact decide_eq_false (by rw [if_neg Bool.false_ne_true]; omega)
  | true => exact decide_eq_true (by rw [if_pos rfl]; omega)

theorem mag_eq (h : HasFields u s e f) : u.toNat % 2 ^ 63 = e * 2 ^ 52 + f := by
  obtain ⟨he, hf, hu⟩ := h
  split at hu <;> omega

theorem mag_exp (h : HasFields u s e f) : u.toNat % 2 ^ 63 / 2 ^ 52 = e := by
  rw [h.mag_eq]
  have := h.frac_lt
  omega

theorem mag_frac (h : HasFields u s e f) : u.toNat % 2 ^ 63 % 2 ^ 52 = f := by
  rw [h.mag_eq]
  have := h.frac_lt
  omega

/-! ### The value of a pattern -/

theorem ofBits_fin (h : HasFields u s e f) (he : e < 2047) : F64.ofBits u = .fin s ⟨e, he⟩ (BitVec.ofNat 52 f) := by
  have hfrac : BitVec.ofNat 52 (u.toNat % 2 ^ 63) = BitVec.ofNat 52 f := by
    apply BitVec.eq_of_toNat_eq
    rw [BitVec.toNat_ofNat, BitVec.toNat_ofNat, h.mag_frac, Nat.mod_eq_of_lt h.frac_lt]
  simp only [F64.ofBits, h.sign_eq, h.mag_exp, he, dite_true, hfrac]

theorem ofBits_inf (h : HasFields u s 2047 0) : F64.ofBits u = .inf s := by
  simp only [F64.ofBits, h.sign_eq, h.mag_exp, h.mag_frac, Nat.lt_irrefl, dite_false, if_true]

theorem ofBits_nan (h : HasFields u s 2047 f) {p : Fin 4503599627370495} (hp : f = p.val + 1) :
    F64.ofBits u = .nan s p := by
  have hpay : (f - 1) % 4503599627370495 = p.val := by
    have := p.isLt
    omega
  simp only [F64.ofBits, h.sign_eq, h.mag_exp, h.mag_frac, Nat.lt_irrefl, dite_false, if_neg (show f ≠ 0 by omega), hpay]

end HasFields

/-! ### The pattern of a value -/

/-- The exponent field of a value. -/
def F64.expField : F64 → Nat
  | .fin _ e _ => e.val
  | .inf _ => 2047
  | .nan _ _ => 2047

/-- The fraction field of a value: that of a NaN is not 0. -/
def F64.fracField : F64 → Nat
  | .fin _ _ f => f.toNat
  | .inf _ => 0
  | .nan _ p => p.val + 1

theorem F64.toBits_hasFields (x : F64) : HasFields x.toBits x.sign x.expField x.fracField := by
  have he : x.expField < 2048 := by
    cases x with
    | fin _ e _ => exact Nat.lt_succ_of_lt e.isLt
    | inf _ | nan _ _ => exact Nat.lt_succ_self 2047
  have hf : x.fracField < 2 ^ 52 := by
    cases x with
    | fin _ _ f => exact f.isLt
    | inf _ =>
      rw [F64.fracField]
      exact Nat.two_pow_pos 52
    | nan _ p =>
      rw [F64.fracField]
      have hp := p.isLt
      omega
  have hbits : x.toBits = BitVec.ofNat 64 ((if x.sign then 2 ^ 63 else 0) + (x.expField * 2 ^ 52 + x.fracField)) := by
    cases x <;> simp only [F64.toBits, F64.expField, F64.fracField, Nat.add_zero]
  refine ⟨he, hf, ?_⟩
  rw [hbits, BitVec.toNat_ofNat, Nat.mod_eq_of_lt]
  split <;> omega

/-- The fields determine the pattern. -/
theorem HasFields.pattern_unique {u v : BitVec 64} {s : Bool} {e f : Nat} (hu : HasFields u s e f) (hv : HasFields v s e f) :
    u = v :=
  BitVec.eq_of_toNat_eq (hu.toNat_eq.trans hv.toNat_eq.symm)

/-- Every value is the value of its pattern. -/
theorem F64.ofBits_toBits (x : F64) : F64.ofBits x.toBits = x := by
  have h := x.toBits_hasFields
  cases x with
  | fin s e f =>
    have hfrac : BitVec.ofNat 52 f.toNat = f := (BitVec.ofNat_toNat 52 f).trans (BitVec.setWidth_eq f)
    exact (h.ofBits_fin e.isLt).trans (congrArg (F64.fin s e) hfrac)
  | inf s => exact h.ofBits_inf
  | nan s p => exact h.ofBits_nan rfl

/-- A pattern is finite, an infinity or a NaN, by its exponent and its fraction. -/
theorem HasFields.cases {u : BitVec 64} {s : Bool} {e f : Nat} (h : HasFields u s e f) :
    (∃ he : e < 2047, F64.ofBits u = .fin s ⟨e, he⟩ (BitVec.ofNat 52 f)) ∨
    (e = 2047 ∧ f = 0 ∧ F64.ofBits u = .inf s) ∨
    (e = 2047 ∧ ∃ p : Fin 4503599627370495, f = p.val + 1 ∧ F64.ofBits u = .nan s p) := by
  have he := h.exp_lt
  have hf := h.frac_lt
  rcases Nat.lt_or_ge e 2047 with he' | he'
  · exact .inl ⟨he', h.ofBits_fin he'⟩
  obtain rfl : e = 2047 := by omega
  rcases Nat.eq_zero_or_pos f with rfl | hpos
  · exact .inr (.inl ⟨rfl, rfl, h.ofBits_inf⟩)
  · have hp : f = f - 1 + 1 := by omega
    exact .inr (.inr ⟨rfl, ⟨f - 1, by omega⟩, hp, h.ofBits_nan hp⟩)

/-- Every pattern is the pattern of its value. -/
theorem F64.toBits_ofBits (u : BitVec 64) : (F64.ofBits u).toBits = u := by
  have h := hasFields u
  have hx := (F64.ofBits u).toBits_hasFields
  rcases h.cases with ⟨he, e⟩ | ⟨he, hf, e⟩ | ⟨he, p, hf, e⟩ <;> rw [e] at hx ⊢
  · have hfrac : (BitVec.ofNat 52 (u.toNat % 2 ^ 52)).toNat = u.toNat % 2 ^ 52 := by simp
    rw [F64.fracField, hfrac] at hx
    exact hx.pattern_unique h
  · rw [he, hf] at h
    exact hx.pattern_unique h
  · rw [he, hf] at h
    exact hx.pattern_unique h

theorem F64.toInt1074_eq (x : F64) : x.toInt1074 = (if x.sign = true then -1 else 1) * (x.units : Int) := by
  unfold F64.toInt1074
  split
  · exact Int.neg_eq_neg_one_mul _
  · exact (Int.one_mul _).symm

/-- Settles O43: the round trips by the fields of a pattern, and the value by the three cases they leave. -/
theorem bitPatternsAreValues : Obligations.BitPatternsAreValues := by
  unfold Obligations.BitPatternsAreValues
  refine ⟨F64.toBits_ofBits, F64.ofBits_toBits, ?_⟩
  rintro u _ _ rfl rfl
  have h := hasFields u
  have hlt := h.frac_lt
  rcases h.cases with ⟨he, e⟩ | ⟨he, hf, e⟩ | ⟨he, p, hf, e⟩ <;> rw [e]
  · refine ⟨rfl, fun _ => ⟨rfl, ?_, ?_⟩, fun he' => ?_, fun he' => ?_⟩
    · simp only [F64.units, BitVec.toNat_ofNat, Nat.mod_eq_of_lt hlt]
    · exact F64.toInt1074_eq _
    · omega
    · omega
  · exact ⟨rfl, fun he' => by omega, fun _ _ => rfl, fun _ hne => absurd hf hne⟩
  · exact ⟨rfl, fun he' => by omega, fun _ h0 => by omega, fun _ _ => rfl⟩

end Sys2Proof
end

section
/-! ## PROOFS. The characters of a record: what they are, and the codes they spell -/

namespace Sys2Proof

namespace F64

/-! ### A rounded quotient below a bound -/

/-- Rounding is monotone: a quotient that is at most a finite value is not rounded to more than it. -/
theorem IsRounding.units_le {x y : F64} {s : Bool} {n d : Nat} (h : x.IsRounding s n d) (hd : 0 < d)
    (hy : y.isFinite = true) (hn : n ≤ y.units * d) : x.units ≤ y.units := by
  obtain ⟨-, -, hnear⟩ := h
  cases x with
  | inf _ | nan _ _ => exact Nat.zero_le _
  | fin sx ex fx =>
    obtain ⟨hle, -⟩ := hnear rfl y hy
    generalize (F64.fin sx ex fx).units = k at hle ⊢
    by_contra hlt
    have hmul : (y.units : Int) * d < k * d := by exact_mod_cast Nat.mul_lt_mul_of_pos_right (Nat.lt_of_not_le hlt) hd
    have hn' : (n : Int) ≤ y.units * d := by exact_mod_cast hn
    omega

end F64

/-- A quotient less than a half above `m` is not rounded to more than `m`. -/
theorem IsNearestEven.le_of_lt {n d q m : Nat} (h : IsNearestEven n d q) (hlt : 2 * n < (2 * m + 1) * d) : q ≤ m := by
  by_contra hq
  have hbelow := h.le_half_below
  have hmul : (2 * (m + 1)) * d ≤ 2 * q * d := Nat.mul_le_mul_right d (by omega)
  have e1 : (2 * m + 1) * d = 2 * (m * d) + d := by ring
  have e2 : (2 * (m + 1)) * d = 2 * (m * d) + 2 * d := by ring
  omega

namespace F64

theorem rte_toNat_le (x : F64) : x.rte.toNat ≤ rteUnits x.units := by
  unfold rte
  split <;> omega

/-- A quotient at most a value `y` below `m + 1/2` has, rounded to binary64 and then to a whole number, at most `m`. -/
theorem IsRounding.rte_toNat_le {x y : F64} {s : Bool} {n d m : Nat} (h : x.IsRounding s n d) (hd : 0 < d)
    (hy : y.isFinite = true) (hn : n ≤ y.units * d) (hm : 2 * y.units < (2 * m + 1) * 2 ^ 1074) : x.rte.toNat ≤ m := by
  have hle : x.units ≤ y.units := h.units_le hd hy hn
  exact (x.rte_toNat_le).trans ((rteUnits_isNearestEven x.units).le_of_lt (by omega))

/-- A value between two finite values, in the order of IEEE 754, is finite. -/
theorem isFinite_of_between {lo x hi : F64} (hlo : lo.isFinite = true) (hhi : hi.isFinite = true)
    (h1 : lo.le x = true) (h2 : x.le hi = true) : x.isFinite = true := by
  cases x with
  | fin _ _ _ => rfl
  | inf s =>
    obtain ⟨-, -, -, -, -, -, -, -, -, -, -, hle⟩ := inf_with_finite s hlo
    obtain ⟨-, -, -, -, -, -, -, -, -, hle', -, -⟩ := inf_with_finite s hhi
    rw [hle] at h1
    rw [hle'] at h2
    simp [h2] at h1
  | nan s p =>
    rw [le_eq_false_of_isNan (.inr rfl)] at h1
    exact absurd h1 Bool.false_ne_true

theorem units_eq_natAbs (x : F64) : x.units = x.toInt1074.natAbs := by
  unfold toInt1074
  split
  · rw [Int.natAbs_neg, Int.natAbs_natCast]
  · rw [Int.natAbs_natCast]

end F64

end Sys2Proof

namespace Sys2Proof.Machine

/-! ### The domains -/

theorem AttReg.ends_isFinite (r : AttReg) : r.low.isFinite = true ∧ r.high.isFinite = true := by
  cases r <;> decide +kernel

/-- A value of a domain is finite and lies between its ends (10_state.md R22). -/
theorem AttReg.inDomain_iff (r : AttReg) (x : F64) :
    r.inDomain x = true ↔
      x.isFinite = true ∧ r.low.toInt1074 ≤ x.toInt1074 ∧ x.toInt1074 ≤ r.high.toInt1074 := by
  obtain ⟨hlow, hhigh⟩ := r.ends_isFinite
  rw [AttReg.inDomain, Bool.and_eq_true]
  constructor
  · rintro ⟨h1, h2⟩
    have hx : x.isFinite = true := F64.isFinite_of_between hlow hhigh h1 h2
    exact ⟨hx, (F64.le_iff_toInt1074_le hlow hx).mp h1, (F64.le_iff_toInt1074_le hx hhigh).mp h2⟩
  · rintro ⟨hx, h1, h2⟩
    exact ⟨(F64.le_iff_toInt1074_le hlow hx).mpr h1, (F64.le_iff_toInt1074_le hx hhigh).mpr h2⟩

/-! ### The codes are as small as their digits -/

/-- The horizontal code is one byte: below 9.771 the quotient is below 255.25, and from there it is clamped
(44_tss1_encoder.md R191 to R193). -/
theorem horizCode_le {h : F64} (hd : AttReg.horiz.inDomain h = true) : horizCode h ≤ 255 := by
  obtain ⟨hfin, hlow, -⟩ := (AttReg.inDomain_iff _ _).mp hd
  unfold horizCode
  split
  · next hlt =>
    have hlit : (F64.literal false 9771 1000).isFinite = true := by decide +kernel
    have hq : (F64.literal false 383 10000).isFinite = true := by decide +kernel
    have hq0 : (F64.literal false 383 10000).units ≠ 0 := by decide +kernel
    have hbound : (F64.literal false 1021 4).isFinite = true := by decide +kernel
    have hlow0 : (0 : Int) ≤ h.toInt1074 := hlow
    have hle : h.units ≤ (F64.literal false 9771 1000).units := by
      have hlt' := (F64.lt_iff_toInt1074_lt hfin hlit).mp hlt
      rw [F64.units_eq_natAbs, F64.units_eq_natAbs]
      omega
    have hnum : h.units * 2 ^ 1074 ≤ (F64.literal false 1021 4).units * (F64.literal false 383 10000).units :=
      (Nat.mul_le_mul_right _ hle).trans (by decide +kernel)
    exact (F64.div_isRounding hfin hq hq0).rte_toNat_le (Nat.pos_of_ne_zero hq0) hbound hnum (by decide +kernel)
  · exact Nat.min_le_right _ _

/-- A magnitude is four digits: a hundred times the domain's end is below 9999.25 (R197). -/
theorem magnitude_le {x : F64} (hd : AttReg.heave.inDomain x = true) : magnitude x ≤ 9999 := by
  obtain ⟨hfin, hlow, hhigh⟩ := (AttReg.inDomain_iff _ _).mp hd
  obtain ⟨habs, -, habsUnits⟩ := F64.abs_of_isFinite hfin
  have hhundred : (F64.literal false 100 1).isFinite = true := by decide +kernel
  have hbound : (F64.literal false 39997 4).isFinite = true := by decide +kernel
  have hends : AttReg.heave.low.toInt1074 = -AttReg.heave.high.toInt1074 := by decide +kernel
  have hle : x.units ≤ AttReg.heave.high.units := by
    rw [F64.units_eq_natAbs, F64.units_eq_natAbs]
    omega
  have hnum : x.abs.units * (F64.literal false 100 1).units ≤ (F64.literal false 39997 4).units * 2 ^ 1074 := by
    rw [habsUnits]
    exact (Nat.mul_le_mul_right _ hle).trans (by decide +kernel)
  exact (F64.mul_isRounding habs hhundred).rte_toNat_le F64.one1074_pos hbound hnum (by decide +kernel)

/-! ### The characters -/

theorem hexDigit_mod (n : Nat) : hexDigit n = hexDigit (n % 16) := by simp [hexDigit]

theorem decDigit_mod (n : Nat) : decDigit n = decDigit (n % 10) := by simp [decDigit]

/-- The characters of digits are those of 00_scope.md R17, and each reads back as its digit. -/
theorem isHexChar_hexDigit (n : Nat) : isHexChar (hexDigit n) = true := by
  have h : ∀ m < 16, isHexChar (hexDigit m) = true := by decide
  rw [hexDigit_mod]
  exact h _ (Nat.mod_lt _ (by decide))

@[simp] theorem hexValue_hexDigit (n : Nat) : hexValue (hexDigit n) = n % 16 := by
  have h : ∀ m < 16, hexValue (hexDigit m) = m := by decide
  rw [hexDigit_mod]
  exact h _ (Nat.mod_lt _ (by decide))

theorem isDecChar_decDigit (n : Nat) : isDecChar (decDigit n) = true := by
  have h : ∀ m < 10, isDecChar (decDigit m) = true := by decide
  rw [decDigit_mod]
  exact h _ (Nat.mod_lt _ (by decide))

@[simp] theorem decValue_decDigit (n : Nat) : decValue (decDigit n) = n % 10 := by
  have h : ∀ m < 10, decValue (decDigit m) = m := by decide
  rw [decDigit_mod]
  exact h _ (Nat.mod_lt _ (by decide))

theorem signChar_isSignChar (x : F64) : isSignChar (signChar x) = true := by
  unfold signChar
  split <;> decide

/-- The sign character is a minus exactly below zero (R197). -/
theorem signChar_eq_minus_iff {x : F64} (hx : x.isFinite = true) : signChar x = 0x2D ↔ x.lt .zero = true := by
  have hzero : F64.zero.isFinite = true := rfl
  have hle := F64.le_iff_toInt1074_le hzero hx
  have hlt := F64.lt_iff_toInt1074_lt hx hzero
  unfold signChar
  split
  · next h =>
    rw [hlt]
    exact iff_of_false (by decide) (Int.not_lt.mpr (hle.mp h))
  · next h =>
    rw [hle, Int.not_le] at h
    exact iff_of_true rfl (hlt.mpr h)

/-! ### The positions (30_encoding.md R95) -/

section Positions

variable (a : Attitude) (st : Status)

theorem recordOf_hexDigits : ∀ k ∈ [1, 2, 3, 4, 5, 6], ∃ n, (recordOf a st).toList[k]? = some (hexDigit n) := by
  simp only [List.forall_mem_cons]
  exact ⟨⟨_, rfl⟩, ⟨_, rfl⟩, ⟨_, rfl⟩, ⟨_, rfl⟩, ⟨_, rfl⟩, ⟨_, rfl⟩, nofun⟩

theorem recordOf_signChars : ∀ k ∈ [8, 14, 20], ∃ x, (recordOf a st).toList[k]? = some (signChar x) := by
  simp only [List.forall_mem_cons]
  exact ⟨⟨_, rfl⟩, ⟨_, rfl⟩, ⟨_, rfl⟩, nofun⟩

theorem recordOf_decDigits :
    ∀ k ∈ [9, 10, 11, 12, 15, 16, 17, 18, 21, 22, 23, 24], ∃ n, (recordOf a st).toList[k]? = some (decDigit n) := by
  simp only [List.forall_mem_cons]
  exact ⟨⟨_, rfl⟩, ⟨_, rfl⟩, ⟨_, rfl⟩, ⟨_, rfl⟩, ⟨_, rfl⟩, ⟨_, rfl⟩, ⟨_, rfl⟩, ⟨_, rfl⟩, ⟨_, rfl⟩, ⟨_, rfl⟩, ⟨_, rfl⟩,
    ⟨_, rfl⟩, nofun⟩

theorem statusChar_eq : statusChar st = if st = .active then 0x46 else 0x48 := by
  cases st <;> rfl

end Positions

/-- Settles O40: at each position stands a digit, a sign, the status or a fixed character, whatever the state. -/
theorem recordCharacterSet : Obligations.RecordCharacterSet := by
  unfold Obligations.RecordCharacterSet
  rintro a st _ rfl
  refine ⟨Vector.length_toList, rfl, rfl, rfl, rfl, fun k hk => ?_, fun k hk => ?_, fun k hk => ?_, ?_⟩
  · obtain ⟨n, hn⟩ := recordOf_hexDigits a st k hk
    exact ⟨_, hn, isHexChar_hexDigit n⟩
  · obtain ⟨x, hx⟩ := recordOf_signChars a st k hk
    exact ⟨_, hx, signChar_isSignChar x⟩
  · obtain ⟨n, hn⟩ := recordOf_decDigits a st k hk
    exact ⟨_, hn, isDecChar_decDigit n⟩
  · rw [← statusChar_eq]
    rfl

/-! ### Reading a record back -/

theorem recordHex_of_hexDigits {r : Vector Byte 26} {k m n : Nat} (h0 : r.toList.getD k 0 = hexDigit m)
    (h1 : r.toList.getD (k + 1) 0 = hexDigit n) : recordHex r k = 16 * (m % 16) + n % 16 := by
  rw [recordHex, h0, h1, hexValue_hexDigit, hexValue_hexDigit]

/-- Four decimal digits spell a number below ten thousand. -/
theorem recordDec_of_decDigits {r : Vector Byte 26} {k n : Nat} (hn : n ≤ 9999)
    (h0 : r.toList.getD k 0 = decDigit (n / 1000)) (h1 : r.toList.getD (k + 1) 0 = decDigit (n / 100))
    (h2 : r.toList.getD (k + 2) 0 = decDigit (n / 10)) (h3 : r.toList.getD (k + 3) 0 = decDigit n) :
    recordDec r k = n := by
  simp only [recordDec, h0, h1, h2, h3, decValue_decDigit]
  omega

theorem recordHex_horiz (a : Attitude) (st : Status) (h : horizCode a.horiz ≤ 255) :
    recordHex (recordOf a st) 1 = horizCode a.horiz := by
  have hdigits : recordHex (recordOf a st) 1 = 16 * (horizCode a.horiz / 16 % 16) + horizCode a.horiz % 16 :=
    recordHex_of_hexDigits rfl rfl
  omega

/-- The vertical pattern stands low byte first (R196). -/
theorem recordHex_vert (a : Attitude) (st : Status) :
    recordHex (recordOf a st) 3 + 256 * recordHex (recordOf a st) 5 = (vertCode a.vert).toNat := by
  have hv : (vertCode a.vert).toNat < 2 ^ 16 := (vertCode a.vert).isLt
  have hlow : recordHex (recordOf a st) 3 = 16 * ((vertCode a.vert).toNat / 16 % 16) + (vertCode a.vert).toNat % 16 :=
    recordHex_of_hexDigits rfl rfl
  have hhigh : recordHex (recordOf a st) 5 =
      16 * ((vertCode a.vert).toNat / 4096 % 16) + (vertCode a.vert).toNat / 256 % 16 :=
    recordHex_of_hexDigits rfl rfl
  omega

/-- Settles O41: the digits of a code read back as the code, which is small enough for them in range (`horizCode_le`,
`magnitude_le`), and a sign character is that of its value (`signChar_eq_minus_iff`). -/
theorem recordSpellsItsCodes : Obligations.RecordSpellsItsCodes := by
  unfold Obligations.RecordSpellsItsCodes
  rintro a st _ hrange rfl
  rw [Attitude.firstViolation_eq_none_iff] at hrange
  have hmag (x : F64) (hx : AttReg.heave.inDomain x = true) :
      magnitude x ≤ 9999 ∧ (some (signChar x) = some 0x2D ↔ x.lt .zero = true) := by
    obtain ⟨hfin, -, -⟩ := (AttReg.inDomain_iff _ _).mp hx
    exact ⟨magnitude_le hx, Option.some_inj.trans (signChar_eq_minus_iff hfin)⟩
  obtain ⟨hheave, sheave⟩ := hmag a.heave (hrange .heave)
  obtain ⟨hroll, sroll⟩ := hmag a.roll (hrange .roll)
  obtain ⟨hpitch, spitch⟩ := hmag a.pitch (hrange .pitch)
  exact ⟨recordHex_horiz a st (horizCode_le (hrange .horiz)), recordHex_vert a st,
    recordDec_of_decDigits hheave rfl rfl rfl rfl, recordDec_of_decDigits hroll rfl rfl rfl rfl,
    recordDec_of_decDigits hpitch rfl rfl rfl rfl, sheave, sroll, spitch⟩

end Sys2Proof.Machine
end

section
/-! ## PROOFS. The frame scanner: each rule of it, a block step that waits for bytes, and the search for the first sync word -/

namespace Sys2Proof.Machine

variable {s t : State}

/-! ### The four rules -/

/-- Settles O19: the window enables the rule, and `State.openFrame_eq` is its next state. -/
theorem syncLongOpensALongFrame : Obligations.SyncLongOpensALongFrame := by
  unfold Obligations.SyncLongOpensALongFrame
  intro s hf hlen hw
  have hstep : exec .syncLong s = .next (s.openFrame .long 28) := stepIf_true ((s.syncHere_iff _).mpr ⟨hf, hlen, hw⟩) _ _
  rw [hstep, State.openFrame_eq]
  rfl

/-- Settles O20: the window enables the rule, and `State.openFrame_eq` is its next state. -/
theorem syncShortOpensAShortFrame : Obligations.SyncShortOpensAShortFrame := by
  unfold Obligations.SyncShortOpensAShortFrame
  intro s hf hlen hw
  have hstep : exec .syncShort s = .next (s.openFrame .short 12) := stepIf_true ((s.syncHere_iff _).mpr ⟨hf, hlen, hw⟩) _ _
  rw [hstep, State.openFrame_eq]
  rfl

/-- Settles O21: the window enables the rule, and its next state is that of the sync match (`State.matchSync_eq`) past the
three bytes of the word. -/
theorem syncInfoTextStartsARun : Obligations.SyncInfoTextStartsARun := by
  unfold Obligations.SyncInfoTextStartsARun
  intro s hf hlen hw
  have hstep : exec .syncInfoText s = .next (((s.matchSync .infoText).withPos (s.pos + 3)).withFsm .textSkip) :=
    stepIf_true ((s.syncHere_iff _).mpr ⟨hf, hlen, hw⟩) _ _
  rw [hstep, State.matchSync_eq]
  rfl

theorem notSyncWord_of_not_mem {b0 b1 b2 : Byte} (h : [b0, b1, b2] ∉ syncWords) : notSyncWord b0 b1 b2 = true := by
  simp [notSyncWord, h]

/-- Settles O22: a window that is no sync word enables the rule, and `State.discardByte_eq` is its next state. -/
theorem syncNoneDiscardsOneByte : Obligations.SyncNoneDiscardsOneByte := by
  unfold Obligations.SyncNoneDiscardsOneByte
  intro s b0 b1 b2 hf hlen hw hno
  have hhere : s.syncHere [b0, b1, b2] = true := (s.syncHere_iff _).mpr ⟨hf, hlen, hw⟩
  have hstep : exec (.syncNone b0 b1 b2) s = .next s.discardByte :=
    stepIf_true (Bool.and_eq_true_iff.mpr ⟨hhere, notSyncWord_of_not_mem hno⟩) _ _
  rw [hstep, State.discardByte_eq]

/-! ### A step that is not enabled -/

/-- A block step with nothing to do changes nothing (R256). -/
theorem blockStep_of_not_enabled (h : s.blockEnabled = false) : blockStep s = .next s := by
  simp only [State.blockEnabled, Bool.or_eq_false_iff] at h
  obtain ⟨⟨hfail, hstop⟩, hready⟩ := h
  simp [blockStep, State.fetch, State.control, hfail, hstop, hready]

/-- Settles O10: in each of the four states the row asks for bytes that are missing, so no block step is enabled. -/
theorem missingBytesAreAWait : Obligations.MissingBytesAreAWait := by
  unfold Obligations.MissingBytesAreAWait
  intro s hq hturn hmissing
  have hready : s.rowReady = false := by
    rcases hmissing with ⟨hf, hlt⟩ | ⟨hf, hlt⟩ | ⟨hf, hlt⟩ | ⟨hf, hlt⟩ <;>
      simpa only [State.rowReady, hf, decide_eq_false_iff_not, Nat.not_le] using hlt
  have hwait : s.popped.blockEnabled = false := by
    obtain ⟨hfail, hstop⟩ := hq.not_failing_not_stopping
    have hen : s.blockEnabled = false := by rw [State.blockEnabled, hfail, hstop, hready]; rfl
    exact hen
  obtain ⟨hr, -, -, -⟩ := hq
  rw [step_blockTurn (.inl hturn) hr, blockStep_of_not_enabled hwait]

/-- The `require` of an instruction's rule (R101 to R104, R140, R145 to R153): its control state, the bytes it needs, and the
window or the latched id that selects it. -/
def State.Enables (s : State) (i : Instr) : Prop :=
  i.wf = true ∧
    match i.level with
    | .sync => s.fsm = .waitSync ∧ s.pos + 3 ≤ s.avail ∧ s.bytes s.pos 3 = encode i
    | .msgId => s.fsm = .message ∧ s.frame.frameEnd ≤ s.avail ∧ leBytes 2 s.frame.msgId.toNat = encode i

theorem exec_of_not_enables {i : Instr} (h : ¬s.Enables i) : exec i s = .next s := by
  cases i with
  | syncLong | syncShort | syncInfoText =>
    exact stepIf_false (Bool.eq_false_iff.mpr fun hb => h ⟨rfl, (s.syncHere_iff _).mp hb⟩) _ _
  | syncNone b0 b1 b2 =>
    refine stepIf_false (Bool.eq_false_iff.mpr fun hb => h ?_) _ _
    obtain ⟨hhere, hwf⟩ := Bool.and_eq_true_iff.mp hb
    exact ⟨hwf, (s.syncHere_iff _).mp hhere⟩
  | msg1462 | msg1457 | msg319 | msg1465 | msg508 | msg1708 | msg1382 | msg813 =>
    refine stepIf_false (Bool.eq_false_iff.mpr fun hb => h ?_) _ _
    obtain ⟨hf, hlen, hid⟩ := (s.messageHere_iff _).mp hb
    exact ⟨rfl, hf, hlen, by rw [hid]; rfl⟩
  | msgUnsupported id =>
    refine stepIf_false (Bool.eq_false_iff.mpr fun hb => h ?_) _ _
    obtain ⟨hhere, hwf⟩ := Bool.and_eq_true_iff.mp hb
    obtain ⟨hf, hlen, hid⟩ := (s.messageHere_iff _).mp hhere
    exact ⟨hwf, hf, hlen, by rw [hid]; rfl⟩

/-- Settles O35: each way to miss the `require` contradicts `State.Enables`. -/
theorem execOutsideItsRequireChangesNothing : Obligations.ExecOutsideItsRequireChangesNothing := by
  unfold Obligations.ExecOutsideItsRequireChangesNothing
  intro i s houtside
  refine exec_of_not_enables fun ⟨hwf, hen⟩ => ?_
  rcases houtside with ⟨hl, hmiss⟩ | ⟨hl, hmiss⟩ | hill
  · rw [hl] at hen
    obtain ⟨hf, hlen, hw⟩ := hen
    rcases hmiss with hne | hlt | hne
    · exact hne hf
    · exact Nat.not_le_of_lt hlt hlen
    · exact hne hw
  · rw [hl] at hen
    obtain ⟨hf, hlen, hid⟩ := hen
    rcases hmiss with hne | hlt | hne
    · exact hne hf
    · exact Nat.not_le_of_lt hlt hlen
    · exact hne hid
  · simp [hwf] at hill

/-! ### What an instruction makes of the attitude registers -/

theorem eq_or_of_stepIf {b : Bool} {u : State} (h : stepIf b u s = .next t) : t = s ∨ t = u := by
  cases b with
  | false => exact .inl (Host.Outcome.next.inj h).symm
  | true => exact .inr (Host.Outcome.next.inj h).symm

/-- A supported message leaves ARF, or writes what its update makes of it. -/
theorem arf_of_stepIf_supported {b : Bool} {k : MsgKind} {upd : FieldRecord → Attitude → Attitude}
    (h : stepIf b (s.supported k upd) s = .next t) : t.arf = s.arf ∨ t.arf = upd (s.fieldsOf k) s.arf := by
  obtain rfl | rfl := eq_or_of_stepIf h
  · exact .inl rfl
  rcases s.supported_cases k upd with ⟨-, e⟩ | ⟨-, e⟩ <;> rw [e]
  · exact .inl rfl
  rcases s.dispose_cases (upd (s.fieldsOf k) s.arf) with ⟨-, e⟩ | ⟨r, -, e⟩ <;> rw [e]
  · exact .inr rfl
  · exact .inl rfl

/-- An instruction leaves ARF, or it is one of the three updating rows and writes what its update makes of it (R170). -/
theorem exec_arf_cases {i : Instr} (h : exec i s = .next t) :
    t.arf = s.arf ∨ ∃ p ∈ updatingRows, i = p.1 ∧ t.arf = p.2.2.2 (s.fieldsOf p.2.2.1) s.arf := by
  cases i with
  | syncLong | syncShort =>
    obtain rfl | rfl := eq_or_of_stepIf h
    · exact .inl rfl
    · rw [State.openFrame_eq]
      exact .inl rfl
  | syncInfoText =>
    obtain rfl | rfl := eq_or_of_stepIf h
    · exact .inl rfl
    · rw [State.matchSync_eq]
      exact .inl rfl
  | syncNone | msgUnsupported => obtain rfl | rfl := eq_or_of_stepIf h <;> exact .inl rfl
  | msg1462 | msg1457 | msg319 | msg508 | msg1382 => exact .inl ((arf_of_stepIf_supported h).elim id id)
  | msg1465 => exact (arf_of_stepIf_supported h).imp_right fun e => ⟨_, .head _, rfl, e⟩
  | msg1708 => exact (arf_of_stepIf_supported h).imp_right fun e => ⟨_, .tail _ (.head _), rfl, e⟩
  | msg813 => exact (arf_of_stepIf_supported h).imp_right fun e => ⟨_, .tail _ (.tail _ (.head _)), rfl, e⟩

/-- Settles O33: by `exec_arf_cases` only three rows write ARF, and their updates copy the registers they do not carry. -/
theorem updatesAreSparse : Obligations.UpdatesAreSparse := by
  unfold Obligations.UpdatesAreSparse
  intro i s t h
  obtain ⟨-, hstatus, -, -⟩ := (exec_row h).host_frame
  rcases exec_arf_cases h with e | ⟨p, hp, rfl, e⟩
  · rw [e]
    exact ⟨fun _ => rfl, fun _ => ⟨rfl, rfl, rfl, rfl⟩, fun _ => rfl, hstatus⟩
  · simp only [updatingRows, List.mem_cons, List.not_mem_nil, or_false] at hp
    rcases hp with rfl | rfl | rfl <;> rw [e]
    · exact ⟨fun _ => rfl, nofun, fun hno => absurd hno (by decide), hstatus⟩
    · exact ⟨fun _ => rfl, nofun, fun hno => absurd hno (by decide), hstatus⟩
    · exact ⟨nofun, fun _ => ⟨rfl, rfl, rfl, rfl⟩, fun hno => absurd hno (by decide), hstatus⟩

/-! ### The search for the first sync word -/

/-- In WAIT_SYNC with three bytes at the cursor, a quiet host and nothing scheduled, a step runs the row that the window
selects. -/
theorem step_waitSync {b0 b1 b2 : Byte} (hq : s.host.Quiet) (hsched : s.host.sched = []) (hf : s.fsm = .waitSync)
    (hlen : s.pos + 3 ≤ s.avail) (hw : s.bytes s.pos 3 = [b0, b1, b2]) : step s = exec (decodeSync b0 b1 b2) s := by
  have hturn : s.BlockTurn := .inr ⟨hsched, by simp [State.blockEnabled, State.rowReady, hf, hlen]⟩
  have hdec : decode .sync (s.bytes s.pos 3) = .ok (decodeSync b0 b1 b2, []) := by rw [hw]; rfl
  obtain ⟨hrun, -⟩ := stepRunsTheDecodedInstruction
  obtain ⟨-, hstep⟩ := hrun s _ [] hq hturn hf hlen hdec
  rw [hstep, State.popped_nil hsched]

theorem step_discards (hq : s.host.Quiet) (hsched : s.host.sched = []) (hf : s.fsm = .waitSync)
    (hlen : s.pos + 3 ≤ s.avail) (hno : s.bytes s.pos 3 ∉ syncWords) : step s = .next s.discardByte := by
  obtain ⟨b0, b1, b2, hw⟩ := List.length_eq_three.mp (State.bytes_length hlen)
  rw [hw] at hno
  rw [step_waitSync hq hsched hf hlen hw, decodeSync_of_notSyncWord (notSyncWord_of_not_mem hno),
    syncNoneDiscardsOneByte s b0 b1 b2 hf hlen hw hno, State.discardByte_eq]

/-- One step more is a step of the state reached. -/
theorem stepN_succ_of_next {k : Nat} (h : stepN k s = .next t) : stepN (k + 1) s = step t := by
  induction k generalizing s with
  | zero =>
    cases h
    rw [stepN]
    cases step t <;> rfl
  | succ k ih =>
    rw [stepN] at h ⊢
    split at h
    · exact ih h
    · cases h
    · cases h

/-- The state with the first `k` bytes of the stream discarded in one run. -/
def State.skipped (s : State) (k : Nat) : State := { s with pos := k, disc := ⟨k, 0⟩ }

theorem State.skipped_discardByte (s : State) (k : Nat) : (s.skipped k).discardByte = s.skipped (k + 1) := by
  cases k <;> rfl

theorem State.skipped_zero (hpos : s.pos = 0) (hdisc : s.disc = ⟨0, 0⟩) : s.skipped 0 = s := by
  rw [State.skipped, ← hdisc, ← hpos]

/-- While no sync word starts at the cursor every step discards one byte (R103). -/
theorem stepN_skips (hq : s.host.Quiet) (hsched : s.host.sched = []) (hf : s.fsm = .waitSync) (hpos : s.pos = 0)
    (hdisc : s.disc = ⟨0, 0⟩) {k : Nat} (hlen : k + 2 ≤ s.avail) (hno : ∀ j < k, s.bytes j 3 ∉ syncWords) :
    stepN k s = .next (s.skipped k) := by
  induction k with
  | zero => rw [stepN, State.skipped_zero hpos hdisc]
  | succ k ih =>
    have hrun := ih (by omega) fun j hj => hno j (by omega)
    have hstep : step (s.skipped k) = .next (s.skipped k).discardByte :=
      step_discards hq hsched hf (show k + 3 ≤ s.avail by omega) (hno k (Nat.lt_succ_self k))
    rw [stepN_succ_of_next hrun, hstep, State.skipped_discardByte]

/-- Settles O23: the garbage is skipped (`stepN_skips`), and at its end SYNC_LONG closes the run of as many bytes. -/
theorem resyncFindsTheFirstLongSync : Obligations.ResyncFindsTheFirstLongSync := by
  unfold Obligations.ResyncFindsTheFirstLongSync
  intro s g r hq hsched hf hpos hdisc hin hno
  have hlen : g.length + 3 ≤ s.avail := by simp [State.avail, hin]
  have hw : s.bytes g.length 3 = [0xAA, 0x44, 0x12] := by simp [State.bytes, hin]
  have hrun := stepN_skips hq hsched hf hpos hdisc (by omega) hno
  have hstep : step (s.skipped g.length) = exec .syncLong (s.skipped g.length) :=
    step_waitSync (s := s.skipped g.length) hq hsched hf hlen hw
  rw [stepN_succ_of_next hrun, hstep, syncLongOpensALongFrame (s.skipped g.length) hf hlen hw]
  cases g <;> simp [State.skipped, hdisc]

end Sys2Proof.Machine
end

section
/-! ## PROOFS. The header parser: the block steps of HEADER and TEXT_SKIP by the frame kind, and that an open frame has one -/

namespace Sys2Proof.Machine

variable {s t : State}

/-! ### The dispatch -/

/-- In TEXT_SKIP and HEADER no instruction is fetched (30_encoding.md R90). -/
theorem State.fetch_of_headerState (hf : s.fsm = .textSkip ∨ s.fsm = .header) : s.fetch = none := by
  rcases hf with hf | hf <;> simp [State.fetch, hf]

/-- In TEXT_SKIP and HEADER the row of the transition table is the dispatch on the frame kind (R120). -/
theorem State.control_of_headerState (hfail : s.failing = false) (hstop : s.stopping = false)
    (hf : s.fsm = .textSkip ∨ s.fsm = .header) (hready : s.rowReady = true) : s.control = s.headerDecode := by
  rcases hf with hf | hf <;> simp [State.control, hfail, hstop, hready, hf]

/-- With a quiet host a block turn in TEXT_SKIP or HEADER takes the dispatch, once the bytes it asks for are accepted. -/
theorem step_headerDecode (hq : s.host.Quiet) (hturn : s.BlockTurn) (hf : s.fsm = .textSkip ∨ s.fsm = .header)
    (hready : s.rowReady = true) : step s = .next s.popped.headerDecode := by
  obtain ⟨hfail, hstop⟩ := hq.not_failing_not_stopping
  obtain ⟨hr, -, -, -⟩ := hq
  have hfetch : s.popped.fetch = none := State.fetch_of_headerState (s := s.popped) hf
  have hcontrol : s.popped.control = s.popped.headerDecode :=
    State.control_of_headerState (s := s.popped) hfail hstop hf hready
  rw [step_blockTurn hturn hr, blockStep, hfetch, hcontrol]

theorem step_header (hq : s.host.Quiet) (hturn : s.BlockTurn) (hf : s.fsm = .header)
    (hlen : s.frame.syncOff + s.frame.hl ≤ s.avail) : step s = .next s.popped.headerDecode :=
  step_headerDecode hq hturn (.inr hf) (by simpa only [State.rowReady, hf, decide_eq_true_eq] using hlen)

theorem State.headerDecode_of_long (hk : s.frame.kind = .long) (hf : s.fsm = .header)
    (hlen : s.frame.syncOff + 28 ≤ s.avail) : s.headerDecode = s.decodeLong := by
  simp only [State.headerDecode, hk, hf, hlen, and_self, if_true]

theorem State.headerDecode_of_short (hk : s.frame.kind = .short) (hf : s.fsm = .header)
    (hlen : s.frame.syncOff + 12 ≤ s.avail) : s.headerDecode = s.decodeShort := by
  simp only [State.headerDecode, hk, hf, hlen, and_self, if_true]

theorem State.headerDecode_of_infoText (hk : s.frame.kind = .infoText) (hf : s.fsm = .textSkip) :
    s.headerDecode = s.textStep := by
  simp only [State.headerDecode, hk, hf, if_true]

theorem State.headerDecode_of_unknown (hk : s.frame.kind = .unknown) :
    s.headerDecode = s.stopWith (.unknownHeaderKind s.frame) := by
  simp only [State.headerDecode, hk]

/-! ### The fields of a header -/

/-- A header field within the accepted bytes is the sum of 00_scope.md R14. -/
theorem State.headerField_eq_sumAt {off n : Nat} (h : s.frame.syncOff + off + n ≤ s.avail) :
    s.headerField off n = s.sumAt (s.frame.syncOff + off) n :=
  State.memRead_eq_sumAt h

/-- A length of at most two bytes fits its latch, so the frame's end is that of the length in the stream (30_encoding.md R75). -/
theorem State.toNat_ofNat_sumAt {off n : Nat} (h : off + n ≤ s.avail) (hn : 256 ^ n ≤ 2 ^ 16) :
    (BitVec.ofNat 16 (s.sumAt off n)).toNat = s.sumAt off n := by
  obtain ⟨-, hlt⟩ := State.leNat_bytes h
  rw [BitVec.toNat_ofNat]
  exact Nat.mod_eq_of_lt (Nat.lt_of_lt_of_le hlt hn)

/-- Settles O13: the dispatch runs the Long decode, whose fields are the sums of the statement, each within the 28 bytes. -/
theorem longHeaderIsDecoded : Obligations.LongHeaderIsDecoded := by
  unfold Obligations.LongHeaderIsDecoded
  intro s hq hturn hf hk hl hlen
  have hlen' : s.popped.frame.syncOff + 28 ≤ s.popped.avail := hlen
  rw [step_header hq hturn hf (by rwa [hl]), State.headerDecode_of_long (s := s.popped) hk hf hlen']
  simp (disch := omega) only [State.decodeLong, State.latchFrame_eq, State.headerField_eq_sumAt,
    State.toNat_ofNat_sumAt]
  rfl

/-- Settles O14: the dispatch runs the Short decode, whose fields are the sums of the statement, each within the 12 bytes. -/
theorem shortHeaderIsDecoded : Obligations.ShortHeaderIsDecoded := by
  unfold Obligations.ShortHeaderIsDecoded
  intro s hq hturn hf hk hl hlen
  have hlen' : s.popped.frame.syncOff + 12 ≤ s.popped.avail := hlen
  rw [step_header hq hturn hf (by rwa [hl]), State.headerDecode_of_short (s := s.popped) hk hf hlen']
  simp (disch := omega) only [State.decodeShort, State.latchFrame_eq, State.headerField_eq_sumAt,
    State.toNat_ofNat_sumAt]
  rfl

/-- Settles O15: the dispatch runs the measurement, which passes a text byte and ends the run at any other. -/
theorem textByteIsPassedOrEndsTheRun : Obligations.TextByteIsPassedOrEndsTheRun := by
  unfold Obligations.TextByteIsPassedOrEndsTheRun
  intro s b hq hturn hf hk hb
  have hlen : s.pos + 1 ≤ s.avail := (List.getElem?_eq_some_iff.mp hb).1
  have hready : s.rowReady = true := by simpa only [State.rowReady, hf, decide_eq_true_eq] using hlen
  have hstep : step s = .next s.popped.textStep := by
    rw [step_headerDecode hq hturn (.inl hf) hready, State.headerDecode_of_infoText (s := s.popped) hk hf]
  have hb' : s.popped.byteAt s.popped.pos = some b := hb
  refine ⟨fun ht => ?_, fun ht => ?_⟩
  · rw [hstep, State.textStep_of_text hb' ht]
    rfl
  · rw [hstep, State.textStep_of_not_text hb' ht]
    rfl

/-- Settles O17: the dispatch stops the block with the event of R253, whose argument is the code of the kind Unknown. -/
theorem unknownKindIsFatal : Obligations.UnknownKindIsFatal := by
  unfold Obligations.UnknownKindIsFatal
  intro s hq hturn hf hk hlen
  have hevent : Event.unknownHeaderKind s.frame = ⟨2, 0, 0, BitVec.ofNat 32 s.frame.syncOff, 0⟩ := by
    rw [Event.unknownHeaderKind, hk]
    rfl
  rw [step_header hq hturn hf hlen, State.headerDecode_of_unknown (s := s.popped) hk, State.stopWith_eq, ← hevent]
  rfl

/-! ### The kind Unknown is never decoded -/

/-- TEXT_SKIP and HEADER are entered by a sync match only, which latches the kind of its word (R120). -/
theorem State.Inv.kind_ne_unknown (h : s.Inv) (hf : s.fsm = .textSkip ∨ s.fsm = .header) : s.frame.kind ≠ .unknown := by
  rcases hf with hf | hf
  · obtain ⟨hk, -, -⟩ := h.text hf
    simp [hk]
  · obtain ⟨-, -, ⟨hk, -, -⟩ | ⟨hk, -, -⟩⟩ := h.opened (.inl hf) <;> simp [hk]

/-- Every event of `es` stands in `old` already or is no UnknownHeaderKind. -/
def NoNewUnknownKind (old es : List Event) : Prop := ∀ e ∈ es, e ∈ old ∨ e.code ≠ 2

theorem NoNewUnknownKind.refl (old : List Event) : NoNewUnknownKind old old := fun _ he => .inl he

theorem NoNewUnknownKind.append {old : List Event} {e : Event} (he : e.code ≠ 2) : NoNewUnknownKind old (old ++ [e]) := by
  intro e' hmem
  rcases List.mem_append.mp hmem with hold | hnew
  · exact .inl hold
  · obtain rfl := List.mem_singleton.mp hnew
    exact .inr he

/-- A sync match raises a FramingFault or nothing (40_frame_scanner.md R107). -/
theorem State.framing_noNewUnknownKind (s : State) :
    NoNewUnknownKind s.events (s.events ++ (if 0 < s.disc.cnt then [Event.framing s.disc] else [])) := by
  split
  · exact .append (by simp [Event.framing])
  · rw [List.append_nil]
    exact .refl _

/-- Of the rows of the block only the dispatch on the kind Unknown raises UnknownHeaderKind, and the invariant has no such kind
there. -/
theorem State.BlockRow.noNewUnknownKind (hrow : s.BlockRow t) (h : s.Inv) : NoNewUnknownKind s.events t.events := by
  cases hrow with
  | unknownKind hf hk => exact absurd hk (h.kind_ne_unknown hf)
  | ioFailure _ => exact .append (by simp [Event.ioFailure])
  | abort e _ _ he =>
    refine .append ?_
    rcases he with rfl | rfl | ⟨r, rfl⟩
    · simp [Event.unsupported]
    · simp [Event.lengthMismatch]
    · simp [Event.outOfRange]
  | openLong _ | openShort _ =>
    rw [State.openFrame_eq]
    exact s.framing_noNewUnknownKind
  | openText _ =>
    rw [State.matchSync_eq]
    exact s.framing_noNewUnknownKind
  | deliver _ hc _ _ =>
    rw [State.deliver_eq s hc]
    exact .refl _
  | _ => exact .refl _

/-- Settles O59: only the rows of the block raise events (`State.StepRow.block_or_out_events`), and none of them this one
(`State.BlockRow.noNewUnknownKind`). -/
theorem unknownKindIsNeverRaised : Obligations.UnknownKindIsNeverRaised := by
  unfold Obligations.UnknownKindIsNeverRaised
  intro s t h hstep
  rcases (step_row hstep).block_or_out_events with ⟨-, hevents⟩ | ⟨-, hrow⟩
  · rw [hevents]
    exact NoNewUnknownKind.refl _
  · exact hrow.noNewUnknownKind h.popped

end Sys2Proof.Machine
end

section
/-! ## PROOFS. Exact conversions: a magnitude of at most 53 significant bits is its own rounding -/

namespace Sys2Proof

/-- A whole quotient is its own nearest whole number. -/
theorem IsNearestEven.eq_of_mul {c d q : Nat} (h : IsNearestEven (c * d) d q) (hd : 0 < d) : q = c := by
  obtain ⟨hle, -⟩ := h.nearest c
  by_contra hne
  have hfar := le_natAbs_sub_mul d hne
  push_cast at hle hfar
  omega

namespace IsRoundedAt

variable {k t j q : Nat}

/-- A number of at most 53 significant bits is a whole number of quanta: where the quantum `2^j` is greater than `2^t`, the number
is at least `2^52` quanta (`normal`) and at most `2^53 * 2^t`, which leaves `2^52` quanta only. -/
theorem quantum_dvd (h : IsRoundedAt (k * 2 ^ t) 1 j q) (hk : k ≤ 2 ^ 53) : 2 ^ j ∣ k * 2 ^ t := by
  rcases Nat.lt_or_ge t j with htj | htj
  · have hlow : 2 ^ 52 * 2 ^ j ≤ k * 2 ^ t := by
      simpa only [Nat.one_mul] using h.normal.resolve_left (by omega)
    have hhigh : k * 2 ^ t ≤ 2 ^ 52 * 2 ^ j := by
      calc k * 2 ^ t ≤ 2 ^ 53 * 2 ^ t := Nat.mul_le_mul_right _ hk
        _ = 2 ^ 52 * 2 ^ (t + 1) := by ring
        _ ≤ 2 ^ 52 * 2 ^ j := Nat.mul_le_mul_left _ (Nat.pow_le_pow_right (by decide) htj)
    rw [Nat.le_antisymm hhigh hlow]
    exact Nat.dvd_mul_left _ _
  · exact Dvd.dvd.mul_left (Nat.pow_dvd_pow 2 htj) k

theorem mul_quantum_eq (h : IsRoundedAt (k * 2 ^ t) 1 j q) (hk : k ≤ 2 ^ 53) : q * 2 ^ j = k * 2 ^ t := by
  obtain ⟨c, hc⟩ := h.quantum_dvd hk
  have hnear := h.nearest
  rw [hc, Nat.one_mul, Nat.mul_comm] at hnear
  rw [hnear.eq_of_mul (Nat.two_pow_pos j), hc, Nat.mul_comm]

end IsRoundedAt

namespace F64

/-- A magnitude of at most 53 significant bits below the overflow is rounded to itself. -/
theorem roundUnits_exact (s : Bool) {k t : Nat} (hk : k ≤ 2 ^ 53) (ht : t ≤ 2044) :
    (F64.roundUnits s (k * 2 ^ t) 1).isFinite = true ∧ (F64.roundUnits s (k * 2 ^ t) 1).units = k * 2 ^ t := by
  obtain ⟨j, q, he, hr⟩ := F64.roundUnits_isRoundedAt s (k * 2 ^ t) Nat.one_pos
  have hsmall : k * 2 ^ t < 1 * ((2 ^ 54 - 1) * 2 ^ 2044) := by
    calc k * 2 ^ t ≤ 2 ^ 53 * 2 ^ 2044 := by gcongr; decide
      _ < (2 ^ 54 - 1) * 2 ^ 2044 := by gcongr; decide
      _ = 1 * ((2 ^ 54 - 1) * 2 ^ 2044) := (Nat.one_mul _).symm
  have hfin := (hr.lt_binade_iff Nat.one_pos 2044).mpr hsmall
  rw [he]
  exact ⟨(F64.ofMagnitude_isFinite s _).mpr hfin, (hr.units_eq Nat.one_pos s hfin).trans (hr.mul_quantum_eq hk)⟩

/-! ### Integers -/

/-- An integer is its magnitude with its sign, the sign being the bit `F64.ofInt` takes. -/
theorem signBit_mul_natAbs (v : Int) : (if decide (v < 0) = true then -1 else 1) * (v.natAbs : Int) = v := by
  simp only [decide_eq_true_eq]
  split <;> omega

theorem ofInt_sign (v : Int) : (F64.ofInt v).sign = decide (v < 0) := F64.roundUnits_sign _ _ _

/-- Settles O45: the magnitude is a whole number of 1.0, that is of `2^1074` units (`F64.roundUnits_exact`). -/
theorem smallIntegersConvertExactly : Obligations.SmallIntegersConvertExactly := by
  unfold Obligations.SmallIntegersConvertExactly
  intro v hv
  obtain ⟨hfin, hunits⟩ :
      (F64.ofInt v).isFinite = true ∧ (F64.ofInt v).units = v.natAbs * 2 ^ 1074 :=
    roundUnits_exact (decide (v < 0)) hv (by omega)
  refine ⟨hfin, ?_⟩
  rw [toInt1074_eq, ofInt_sign, hunits, Nat.cast_mul, ← Int.mul_assoc, signBit_mul_natAbs, Nat.cast_pow, Nat.cast_ofNat]

/-! ### binary32 values -/

/-- A binary32 number of exponent field below 255 is rounded from its magnitude in units (30_encoding.md R77). -/
theorem ofF32_of_exp_lt {u : BitVec 32} {e f : Nat} (he : e = u.toNat / 2 ^ 23 % 256) (hf : f = u.toNat % 2 ^ 23)
    (hlt : e < 255) :
    F64.ofF32 u = .roundUnits (u.getLsbD 31) ((if e = 0 then f else (2 ^ 23 + f) * 2 ^ (e - 1)) * 2 ^ 925) 1 := by
  subst he hf
  exact if_neg (Nat.ne_of_lt hlt)

theorem ofF32_of_exp_eq {u : BitVec 32} {e f : Nat} (he : e = u.toNat / 2 ^ 23 % 256) (hf : f = u.toNat % 2 ^ 23)
    (h255 : e = 255) : F64.ofF32 u = if f = 0 then .inf (u.getLsbD 31) else .someNan (.widen u) := by
  subst he hf
  exact if_pos h255

/-- A finite binary32 magnitude has at most 24 significant bits. -/
theorem f32_magnitude_eq {e f : Nat} (hf : f < 2 ^ 23) :
    ∃ k t, k < 2 ^ 24 ∧ t ≤ e ∧ (if e = 0 then f else (2 ^ 23 + f) * 2 ^ (e - 1)) = k * 2 ^ t := by
  split
  · exact ⟨f, 0, by omega, Nat.zero_le e, (Nat.mul_one f).symm⟩
  · exact ⟨2 ^ 23 + f, e - 1, by omega, Nat.sub_le e 1, rfl⟩

/-- Settles O44: a finite magnitude has few enough bits to be its own rounding (`F64.roundUnits_exact`); an infinity and a NaN
are kept by the definition. -/
theorem wideningIsExact : Obligations.WideningIsExact := by
  unfold Obligations.WideningIsExact
  intro u e f he hf
  refine ⟨fun hlt => ?_, fun h255 hzero => ?_, fun h255 hne => ?_⟩
  · obtain ⟨k, t, hk, ht, hmag⟩ := f32_magnitude_eq (e := e) (show f < 2 ^ 23 by omega)
    rw [ofF32_of_exp_lt he hf hlt, hmag, Nat.mul_assoc, ← Nat.pow_add]
    obtain ⟨hfin, hunits⟩ := roundUnits_exact (u.getLsbD 31) (show k ≤ 2 ^ 53 by omega) (show t + 925 ≤ 2044 by omega)
    exact ⟨hfin, F64.roundUnits_sign _ _ _, hunits⟩
  · rw [ofF32_of_exp_eq he hf h255, if_pos hzero]
  · rw [ofF32_of_exp_eq he hf h255, if_neg hne]
    rfl

end F64
end Sys2Proof
end

section
/-! ## PROOFS. The message arms: a candidate that is committed, a candidate with a NaN, and an id none of the eight -/

namespace Sys2Proof.Machine

variable {s : State}

/-! ### A NaN in a candidate -/

/-- No domain holds a NaN (44_tss1_encoder.md R190). -/
theorem AttReg.inDomain_eq_false_of_isNan (r : AttReg) {x : F64} (hx : x.isNan = true) : r.inDomain x = false := by
  rw [AttReg.inDomain, F64.le_eq_false_of_isNan (.inr hx), Bool.false_and]

theorem Attitude.firstViolation_ne_none_of_isNan {a : Attitude} (r : AttReg) (h : (a.get r).isNan = true) :
    a.firstViolation ≠ none := by
  intro hnone
  have hin : r.inDomain (a.get r) = true := (Attitude.firstViolation_eq_none_iff a).mp hnone r
  rw [AttReg.inDomain_eq_false_of_isNan r h] at hin
  exact Bool.false_ne_true hin

theorem hypotenuse_isNan {x y : F64} (h : x.isNan = true ∨ y.isNan = true) : (hypotenuse x y).isNan = true :=
  F64.sqrt_isNan (F64.add_isNan (h.imp (fun hx => F64.mul_isNan (.inl hx)) fun hy => F64.mul_isNan (.inl hy)))

/-- Every name the update of 1465 reads goes into a register, through operations that keep a NaN (R171). -/
theorem upd1465_get_isNan {f : FieldRecord} {n : String} (a : Attitude) (hn : n ∈ names1465)
    (hnan : (f.num n).isNan = true) : ∃ r : AttReg, ((upd1465 f a).get r).isNan = true := by
  simp only [names1465, List.mem_cons, List.not_mem_nil, or_false] at hn
  rcases hn with rfl | rfl | rfl | rfl | rfl
  · exact ⟨.horiz, F64.div_isNan (.inl hnan)⟩
  · exact ⟨.vert, F64.div_isNan (.inl (hypotenuse_isNan (.inl hnan)))⟩
  · exact ⟨.vert, F64.div_isNan (.inl (hypotenuse_isNan (.inr hnan)))⟩
  · exact ⟨.roll, hnan⟩
  · exact ⟨.pitch, hnan⟩

/-- Every name the update of 1708 reads goes into a register, through operations that keep a NaN (R172). -/
theorem upd1708_get_isNan {f : FieldRecord} {n : String} (a : Attitude) (hn : n ∈ names1708)
    (hnan : (f.num n).isNan = true) : ∃ r : AttReg, ((upd1708 f a).get r).isNan = true := by
  simp only [names1708, List.mem_cons, List.not_mem_nil, or_false] at hn
  rcases hn with rfl | rfl | rfl | rfl | rfl
  · exact ⟨.horiz, F64.mul_isNan (.inl hnan)⟩
  · exact ⟨.vert, F64.mul_isNan (.inl (hypotenuse_isNan (.inl hnan)))⟩
  · exact ⟨.vert, F64.mul_isNan (.inl (hypotenuse_isNan (.inr hnan)))⟩
  · exact ⟨.roll, F64.mul_isNan (.inl hnan)⟩
  · exact ⟨.pitch, F64.mul_isNan (.inl hnan)⟩

/-- Settles O31: a NaN read by an update reaches a register of the candidate, and no domain holds a NaN. -/
theorem nanFieldNeverCommits : Obligations.NanFieldNeverCommits := by
  unfold Obligations.NanFieldNeverCommits
  intro f a
  refine ⟨fun ⟨n, hn, hnan⟩ => ?_, fun ⟨n, hn, hnan⟩ => ?_, fun hnan => ?_⟩
  · obtain ⟨r, hr⟩ := upd1465_get_isNan a hn hnan
    exact Attitude.firstViolation_ne_none_of_isNan r hr
  · obtain ⟨r, hr⟩ := upd1708_get_isNan a hn hnan
    exact Attitude.firstViolation_ne_none_of_isNan r hr
  · exact Attitude.firstViolation_ne_none_of_isNan .heave hnan

/-! ### A candidate in range -/

/-- The disposition of a candidate in range is its commit (R175, R226). -/
theorem State.dispose_of_inRange {cand : Attitude} (h : cand.firstViolation = none) :
    s.dispose cand =
      { s with arf := cand, tx := ⟨recordOf cand s.status, 0⟩, pos := s.frame.frameEnd, fsm := .emit } := by
  rcases s.dispose_cases cand with ⟨-, e⟩ | ⟨r, hr, -⟩
  · exact e
  · rw [h] at hr
    cases hr

/-- A supported arm with the whole frame present, long enough for its layout, commits a candidate in range. -/
theorem stepIf_supported_commits {id : BitVec 16} {k : MsgKind} {upd : FieldRecord → Attitude → Attitude}
    (hf : s.fsm = .message) (hlen : s.frame.frameEnd ≤ s.avail) (hid : s.frame.msgId = id)
    (hsize : (s.layout k).size ≤ s.frame.msgLen.toNat) {cand : Attitude} (hcand : cand = upd (s.fieldsOf k) s.arf)
    (hrange : cand.firstViolation = none) :
    stepIf (s.messageHere id) (s.supported k upd) s =
      .next { s with arf := cand, tx := ⟨recordOf cand s.status, 0⟩, pos := s.frame.frameEnd, fsm := .emit } := by
  rw [stepIf_true ((s.messageHere_iff id).mpr ⟨hf, hlen, hid⟩)]
  rcases s.supported_cases k upd with ⟨hshort, -⟩ | ⟨-, e⟩
  · exact absurd hsize (Nat.not_le_of_lt hshort)
  · rw [e, ← hcand, State.dispose_of_inRange hrange]

/-- Settles O24: each of the five rows is a supported arm whose candidate is the attitude state itself. -/
theorem plainMessagesEmitTheCurrentRecord : Obligations.PlainMessagesEmitTheCurrentRecord := by
  unfold Obligations.PlainMessagesEmitTheCurrentRecord
  intro s p hp hf hlen hid hsize hrange
  simp only [plainRows, List.mem_cons, List.not_mem_nil, or_false] at hp
  rcases hp with rfl | rfl | rfl | rfl | rfl <;>
    exact stepIf_supported_commits (upd := updNone) hf hlen hid hsize rfl hrange

/-- Settles O25: the candidate of the statement is that of R171. -/
theorem msg1465CommitsItsUpdate : Obligations.Msg1465CommitsItsUpdate := by
  unfold Obligations.Msg1465CommitsItsUpdate
  rintro s _ _ _ _ _ a hf hlen hid hsize rfl rfl rfl rfl rfl ha hrange
  have hcand : a = upd1465 (s.fieldsOf .m1465) s.arf := ha
  exact stepIf_supported_commits hf hlen hid hsize hcand hrange

/-- Settles O26: the candidate of the statement is that of R172. -/
theorem msg1708CommitsItsUpdate : Obligations.Msg1708CommitsItsUpdate := by
  unfold Obligations.Msg1708CommitsItsUpdate
  rintro s _ _ _ _ _ a hf hlen hid hsize rfl rfl rfl rfl rfl ha hrange
  have hcand : a = upd1708 (s.fieldsOf .m1708) s.arf := ha
  exact stepIf_supported_commits hf hlen hid hsize hcand hrange

/-- Settles O27: the candidate of the statement is that of R173. -/
theorem msg813CommitsHeave : Obligations.Msg813CommitsHeave := by
  unfold Obligations.Msg813CommitsHeave
  intro s a hf hlen hid hsize ha hrange
  have hcand : a = upd813 (s.fieldsOf .m813) s.arf := ha
  exact stepIf_supported_commits hf hlen hid hsize hcand hrange

/-! ### An id none of the eight -/

theorem notSupportedId_of_not_mem {id : BitVec 16} (h : id ∉ supportedIds) : notSupportedId id = true := by
  simp [notSupportedId, h]

theorem Event.unsupported_eq (f : FrameLatches) :
    Event.unsupported f = ⟨3, 0, f.msgId, BitVec.ofNat 32 f.syncOff, BitVec.ofNat 32 f.msgLen.toNat⟩ := by
  rw [Event.unsupported, report, BitVec.ofNat_toNat]

/-- Settles O28: the id enables the rule, which is the frame abort with the event of R254 (`State.abortFrame_eq`). -/
theorem unsupportedIdSkipsTheFrame : Obligations.UnsupportedIdSkipsTheFrame := by
  unfold Obligations.UnsupportedIdSkipsTheFrame
  rintro s _ hf hlen rfl hno
  have hhere : s.messageHere s.frame.msgId = true := (s.messageHere_iff _).mpr ⟨hf, hlen, rfl⟩
  have hstep : exec (.msgUnsupported s.frame.msgId) s = .next (s.abortFrame (.unsupported s.frame)) :=
    stepIf_true (Bool.and_eq_true_iff.mpr ⟨hhere, notSupportedId_of_not_mem hno⟩) _ _
  rw [hstep, State.abortFrame_eq, Event.unsupported_eq]

end Sys2Proof.Machine
end

section
/-! ## PROOFS. What a message arm can do, once: wait, abort the frame, or commit; and who writes STATUS -/

namespace Sys2Proof.Machine

variable {i : Instr} {s t : State}

/-- Everything a message arm can do (43_attitude_aggregator.md R175, 60_exceptions.md R258): it waits, aborts the frame, or
commits a candidate in range, which is ARF itself or what the update of the arm's own row makes of it. -/
inductive State.MessageRow (i : Instr) (s : State) : State → Prop
  | wait : s.MessageRow i s
  | abort (e : Event) : s.MessageRow i (s.abortFrame e)
  | commit (cand : Attitude) (hd : cand.firstViolation = none)
    (hu : cand = s.arf ∨ ∃ p ∈ updatingRows, i = p.1 ∧ cand = p.2.2.2 (s.fieldsOf p.2.2.1) s.arf) :
    s.MessageRow i { s with arf := cand, tx := ⟨recordOf cand s.status, 0⟩, pos := s.frame.frameEnd, fsm := .emit }

/-- A supported arm is a message row, once its candidate is known to be ARF or that of the instruction's updating row. -/
theorem State.MessageRow.of_supported {b : Bool} {k : MsgKind} {upd : FieldRecord → Attitude → Attitude}
    (hu : upd (s.fieldsOf k) s.arf = s.arf ∨
      ∃ p ∈ updatingRows, i = p.1 ∧ upd (s.fieldsOf k) s.arf = p.2.2.2 (s.fieldsOf p.2.2.1) s.arf)
    (h : stepIf b (s.supported k upd) s = .next t) : s.MessageRow i t := by
  obtain rfl | rfl := eq_or_of_stepIf h
  · exact .wait
  rcases s.supported_cases k upd with ⟨-, e⟩ | ⟨-, e⟩ <;> rw [e]
  · exact .abort _
  rcases s.dispose_cases (upd (s.fieldsOf k) s.arf) with ⟨hd, e⟩ | ⟨r, -, e⟩ <;> rw [e]
  · exact .commit _ hd hu
  · exact .abort _

theorem exec_messageRow (hl : i.level = .msgId) (h : exec i s = .next t) : s.MessageRow i t := by
  cases i with
  | syncLong | syncShort | syncInfoText | syncNone => cases hl
  | msg1462 | msg1457 | msg319 | msg508 | msg1382 => exact .of_supported (.inl rfl) h
  | msg1465 => exact .of_supported (.inr ⟨_, .head _, rfl, rfl⟩) h
  | msg1708 => exact .of_supported (.inr ⟨_, .tail _ (.head _), rfl, rfl⟩) h
  | msg813 => exact .of_supported (.inr ⟨_, .tail _ (.tail _ (.head _)), rfl, rfl⟩) h
  | msgUnsupported _ =>
    obtain rfl | rfl := eq_or_of_stepIf h
    · exact .wait
    · exact .abort _

/-- Settles O32: of the rows of a message arm (`exec_messageRow`) only a commit writes ARF, and only an abort raises an event. -/
theorem commitIsAllOrNothing : Obligations.CommitIsAllOrNothing := by
  unfold Obligations.CommitIsAllOrNothing
  intro i s t hl h
  cases exec_messageRow hl h with
  | wait => exact ⟨.inl rfl, fun hne => absurd rfl hne⟩
  | abort e => exact ⟨.inl rfl, fun _ => ⟨rfl, rfl, rfl, rfl, rfl, rfl⟩⟩
  | commit cand hd hu =>
    refine ⟨hu.imp_right ?_, fun hne => absurd rfl hne⟩
    rintro ⟨p, hp, hi, hcand⟩
    exact ⟨p, hp, hi, hcand, hd, rfl, rfl, rfl, rfl⟩

/-- Settles O56: of the rows of a step only the status-write turn and reset write STATUS. -/
theorem onlyTheHostWritesStatus : Obligations.OnlyTheHostWritesStatus := by
  unfold Obligations.OnlyTheHostWritesStatus
  intro s t hstep
  cases step_row hstep with
  | reset hrst => exact .inr (.inr ⟨hrst, rfl⟩)
  | block _ hrow =>
    obtain ⟨-, hstatus, -, -⟩ := hrow.host_frame
    exact .inl hstatus
  | recv _ =>
    rcases s.popped.recv_eq_or_accept with e | ⟨b, bs, -, e⟩ <;> rw [e] <;> exact .inl rfl
  | status v _ hu => exact .inr (.inl (State.head?_of_nextTurn hu nofun nofun))
  | line _ =>
    rw [State.hostSide_eq]
    exact .inl rfl

end Sys2Proof.Machine
end

section
/-! ## PROOFS. The domain check and the codes of in-range values: their bounds, and how far a decoded code is from its value -/

namespace Sys2Proof

namespace F64

/-! ### The error of one rounding -/

/-- Rounding a quotient once moves it by at most 2^-53 of itself, or half of the least quantum below the normal values. -/
theorem roundUnits_error (s : Bool) (n : Nat) {d : Nat} (hd : 0 < d) (hfin : (F64.roundUnits s n d).isFinite = true) :
    (2 : Int) ^ 53 * |((F64.roundUnits s n d).units : Int) * d - n| ≤ 2 ^ 52 * d + n := by
  obtain ⟨j, q, he, hr⟩ := roundUnits_isRoundedAt s n hd
  rw [he] at hfin ⊢
  have hunits : ((F64.ofMagnitude s (j * 2 ^ 52 + q)).units : Int) * d = q * (d * 2 ^ j : Nat) := by
    rw [hr.units_eq hd s ((F64.ofMagnitude_isFinite s _).mp hfin)]
    push_cast
    ring
  have hhalf := hr.nearest.two_mul_natAbs_le
  have hquantum : 2 ^ 52 * (d * 2 ^ j) ≤ 2 ^ 52 * d + n := by
    rcases hr.normal with rfl | hn <;> omega
  rw [hunits, Int.abs_eq_natAbs]
  omega

/-! ### A rounded quotient and the bounds of the exact one -/

section Rounding

variable {x y : F64} {s : Bool} {n d m : Nat} (h : x.IsRounding s n d)
include h

/-- Rounding is monotone: a quotient that is at least a finite value is not rounded to less than it. -/
theorem IsRounding.le_units (hd : 0 < d) (hx : x.isFinite = true) (hy : y.isFinite = true) (hn : y.units * d ≤ n) :
    y.units ≤ x.units := by
  obtain ⟨-, -, hnear⟩ := h
  obtain ⟨hle, -⟩ := hnear hx y hy
  by_contra hlt
  have hmul : (x.units : Int) * d < y.units * d := by
    exact_mod_cast Nat.mul_lt_mul_of_pos_right (Nat.lt_of_not_le hlt) hd
  have hn' : (y.units : Int) * d ≤ n := by exact_mod_cast hn
  omega

/-- A quotient below the overflow is rounded to a finite value. -/
theorem IsRounding.isFinite_of_lt (hn : n < d * ((2 ^ 54 - 1) * 2 ^ 2044)) : x.isFinite = true := by
  unfold IsRounding at h
  generalize d * ((2 ^ 54 - 1) * 2 ^ 2044) = top at h hn
  obtain ⟨-, hfin, -⟩ := h
  rwa [if_pos hn] at hfin

/-- A quotient at most a value `y` below `m + 1/2` has, rounded twice, a whole magnitude of at most `m`. -/
theorem IsRounding.rteUnits_le (hd : 0 < d) (hy : y.isFinite = true) (hn : n ≤ y.units * d)
    (hm : 2 * y.units < (2 * m + 1) * 2 ^ 1074) : rteUnits x.units ≤ m := by
  have hle : x.units ≤ y.units := h.units_le hd hy hn
  exact (rteUnits_isNearestEven x.units).le_of_lt (by omega)

/-- A quotient that is negative only as a zero has no negative integer next to it. -/
theorem IsRounding.rte_rtz_nonneg (hd : 0 < d) (hs : s = true → n = 0) : 0 ≤ x.rte ∧ 0 ≤ x.rtz := by
  have hsign : x.sign = s := h.1
  cases s with
  | false =>
    rw [rte, rtz, hsign]
    exact ⟨Int.natCast_nonneg _, Int.natCast_nonneg _⟩
  | true =>
    have hn : n ≤ F64.zero.units * d := by rw [hs rfl]; exact Nat.zero_le _
    have h0 : x.units = 0 := Nat.le_zero.mp (h.units_le hd rfl hn)
    have hzero : rteUnits 0 = 0 := by decide +kernel
    rw [rte, rtz, hsign, h0, hzero, Nat.zero_div]
    exact ⟨Int.le_refl 0, Int.le_refl 0⟩

end Rounding

/-- A value not below zero that has the sign bit is -0.0. -/
theorem units_eq_zero_of_sign {x : F64} (h0 : 0 ≤ x.toInt1074) (hs : x.sign = true) : x.units = 0 := by
  rw [toInt1074, if_pos hs] at h0
  omega

/-! ### Division by the quantum of a code -/

/-- `l` is the binary64 value of the positive quantum `a / b`, to within 2^-53 of it. -/
structure IsQuantum (l : F64) (a b : Nat) : Prop where
  finite : l.isFinite = true
  positive : l.sign = false
  units_pos : 0 < l.units
  error : (2 : Int) ^ 53 * |(b : Int) * l.units - a * 2 ^ 1074| ≤ a * 2 ^ 1074

end F64

/-- What the errors of the quantum `l` and of the quotient `q` make of the distance from `q` to the exact quotient by `a / b`: the
error of `l` counts `q` times, that of `q` once. -/
theorem quotient_error {a b l q t x k : Int} (ha : 0 ≤ a) (hb : 0 ≤ b) (hq : 0 ≤ q) (hk : 0 ≤ k) (ht : 2 ^ 53 ≤ t)
    (hl : 2 ^ 53 * |b * l - a * t| ≤ a * t) (hdiv : 2 ^ 53 * |q * l - x * t| ≤ 2 ^ 52 * l + x * t)
    (hx : x ≤ k * l) (hqk : q ≤ k * t) : 2 ^ 53 * |a * q - b * x| ≤ a * ((3 * k + 1) * t) := by
  have htpos : 0 < t := by omega
  have hat : 0 ≤ a * t := by positivity
  have hbl : b * l ≤ 2 * (a * t) := by
    have := le_abs_self (b * l - a * t)
    omega
  have hsplit : t * |a * q - b * x| ≤ q * |b * l - a * t| + b * |q * l - x * t| := by
    calc t * |a * q - b * x| = |b * (q * l - x * t) - q * (b * l - a * t)| := by
          rw [← abs_of_pos htpos, ← abs_mul, abs_of_pos htpos]
          congr 1
          ring
      _ ≤ |b * (q * l - x * t)| + |q * (b * l - a * t)| := abs_sub _ _
      _ = q * |b * l - a * t| + b * |q * l - x * t| := by
          rw [abs_mul, abs_mul, abs_of_nonneg hb, abs_of_nonneg hq, add_comm]
  have hquantum : q * (2 ^ 53 * |b * l - a * t|) ≤ k * t * (a * t) := by gcongr
  have hround : b * (2 ^ 53 * |q * l - x * t|) ≤ t * (a * t) + 2 * k * (a * t) * t := by
    have hxt : x * t ≤ k * l * t := by gcongr
    calc b * (2 ^ 53 * |q * l - x * t|) ≤ b * (2 ^ 52 * l + k * l * t) := by gcongr; omega
      _ = 2 ^ 52 * (b * l) + k * t * (b * l) := by ring
      _ ≤ 2 ^ 52 * (2 * (a * t)) + k * t * (2 * (a * t)) := by gcongr
      _ = 2 ^ 53 * (a * t) + 2 * k * (a * t) * t := by ring
      _ ≤ t * (a * t) + 2 * k * (a * t) * t := by gcongr
  refine le_of_mul_le_mul_left ?_ htpos
  linarith

/-- Half a whole number from the rounded quotient `q`, and the error of `q`, are half a quantum from the exact one and `a * e`
more. -/
theorem code_error {a b c q t x k e : Int} (ha : 0 ≤ a) (hc : 2 * |c * t - q| ≤ t)
    (hq : 2 ^ 53 * |a * q - b * x| ≤ a * ((3 * k + 1) * t)) (he : 2 * ((3 * k + 1) * t) ≤ 2 ^ 53 * e) :
    2 * |a * c * t - b * x| ≤ a * t + a * e := by
  have hsplit : |a * c * t - b * x| ≤ a * |c * t - q| + |a * q - b * x| := by
    calc |a * c * t - b * x| = |a * (c * t - q) + (a * q - b * x)| := by
          congr 1
          ring
      _ ≤ |a * (c * t - q)| + |a * q - b * x| := abs_add_le _ _
      _ = a * |c * t - q| + |a * q - b * x| := by rw [abs_mul, abs_of_nonneg ha]
  have hhalf : a * (2 * |c * t - q|) ≤ a * t := by gcongr
  have hrest : a * (2 * ((3 * k + 1) * t)) ≤ a * (2 ^ 53 * e) := by gcongr
  linarith

namespace F64

section Quantum

variable {l x : F64} {a b : Nat} (hl : l.IsQuantum a b) (hx : x.isFinite = true)
include hl hx

theorem IsQuantum.div_isRounding : (F64.div x l).IsRounding x.sign (x.units * 2 ^ 1074) l.units := by
  have h := F64.div_isRounding hx hl.finite (Nat.ne_of_gt hl.units_pos)
  rwa [hl.positive, Bool.xor_false] at h

theorem IsQuantum.div_sign : (F64.div x l).sign = x.sign := (hl.div_isRounding hx).1

variable {k : Nat} (hk : k ≤ 2 ^ 53) (hxk : x.units ≤ k * l.units)
include hk hxk

/-- A quotient of at most `k` is finite and rounded to at most `k`. -/
theorem IsQuantum.div_le : (F64.div x l).isFinite = true ∧ (F64.div x l).units ≤ k * 2 ^ 1074 := by
  obtain ⟨hkfin, hkunits⟩ := roundUnits_exact false (t := 1074) hk (by omega)
  have hn : x.units * 2 ^ 1074 ≤ k * 2 ^ 1074 * l.units := by
    rw [Nat.mul_right_comm]
    exact Nat.mul_le_mul_right _ hxk
  have hoverflow : x.units * 2 ^ 1074 < l.units * ((2 ^ 54 - 1) * 2 ^ 2044) := by
    refine hn.trans_lt ?_
    rw [Nat.mul_comm]
    exact Nat.mul_lt_mul_of_pos_left ((Nat.mul_le_mul_right _ hk).trans_lt (by decide +kernel)) hl.units_pos
  have hr := hl.div_isRounding hx
  refine ⟨hr.isFinite_of_lt hoverflow, ?_⟩
  rw [← hkunits] at hn ⊢
  exact hr.units_le hl.units_pos hkfin hn

/-- The rounded quotient is near the exact quotient by `a / b`. -/
theorem IsQuantum.div_error :
    (2 : Int) ^ 53 * |(a : Int) * (F64.div x l).toInt1074 - b * x.toInt1074| ≤ a * ((3 * k + 1) * 2 ^ 1074) := by
  obtain ⟨hfin, hle⟩ := hl.div_le hx hk hxk
  have hround : (2 : Int) ^ 53 * |((F64.div x l).units : Int) * l.units - x.units * 2 ^ 1074| ≤
      2 ^ 52 * l.units + x.units * 2 ^ 1074 := by
    rw [div_of_isFinite hx hl.finite, if_neg (Nat.ne_of_gt hl.units_pos)] at hfin ⊢
    have h := roundUnits_error _ _ hl.units_pos hfin
    rwa [Nat.cast_mul, one1074_eq, Nat.cast_pow, Nat.cast_ofNat] at h
  have hqk := Int.ofNat_le.mpr hle
  have hxk' := Int.ofNat_le.mpr hxk
  rw [Nat.cast_mul] at hxk'
  rw [Nat.cast_mul, Nat.cast_pow, Nat.cast_ofNat] at hqk
  have hmag := quotient_error (Int.natCast_nonneg a) (Int.natCast_nonneg b) (Int.natCast_nonneg _) (Int.natCast_nonneg k)
    (by decide +kernel) hl.error hround hxk' hqk
  rw [toInt1074, toInt1074, hl.div_sign hx]
  split
  · rwa [Int.mul_neg, Int.mul_neg, ← neg_sub', abs_neg]
  · exact hmag

/-- The whole number nearest the quotient, times `a / b`, is half a quantum from the value, and an error `a * e` more. -/
theorem IsQuantum.rte_div_error {e : Nat} (he : 2 * ((3 * (k : Int) + 1) * 2 ^ 1074) ≤ 2 ^ 53 * e) :
    2 * ((a : Int) * (F64.div x l).rte * 2 ^ 1074 - b * x.toInt1074).natAbs ≤ a * 2 ^ 1074 + a * e := by
  obtain ⟨hhalf, -⟩ := rte_nearest (F64.div x l)
  have hrte := Int.ofNat_le.mpr hhalf
  rw [Nat.cast_mul, Int.natCast_natAbs, Nat.cast_pow, Nat.cast_ofNat] at hrte
  have h := code_error (Int.natCast_nonneg a) hrte (hl.div_error hx hk hxk) he
  apply Int.ofNat_le.mp
  rwa [Nat.cast_add, Nat.cast_mul, Nat.cast_mul, Nat.cast_mul, Int.natCast_natAbs, Nat.cast_pow, Nat.cast_ofNat]

end Quantum

end F64

end Sys2Proof

namespace Sys2Proof.Machine

/-! ### The domain check -/

theorem AttReg.all_getElem?_index (r : AttReg) : AttReg.all[r.index.toNat]? = some r := by
  cases r <;> rfl

theorem AttReg.index_of_all_getElem {i : Nat} (hi : i < AttReg.all.length) : (AttReg.all[i]).index.toNat = i := by
  revert i
  decide

/-- The check finds the first register in list order, which is the order of the indices. -/
theorem Attitude.firstViolation_eq_some_iff (a : Attitude) (r : AttReg) :
    a.firstViolation = some r ↔
      r.inDomain (a.get r) = false ∧ ∀ q : AttReg, q.index.toNat < r.index.toNat → q.inDomain (a.get q) = true := by
  simp only [Attitude.firstViolation, List.find?_eq_some_iff_getElem, Bool.not_eq_true', Bool.not_not]
  refine and_congr_right fun _ => ⟨?_, fun hbefore => ?_⟩
  · rintro ⟨i, hi, rfl, hbefore⟩ q hlt
    rw [AttReg.index_of_all_getElem hi] at hlt
    obtain ⟨_, hget⟩ := List.getElem?_eq_some_iff.mp q.all_getElem?_index
    have := hbefore _ hlt
    rwa [hget] at this
  · obtain ⟨hi, hget⟩ := List.getElem?_eq_some_iff.mp r.all_getElem?_index
    refine ⟨_, hi, hget, fun j hj => hbefore _ ?_⟩
    rwa [AttReg.index_of_all_getElem]

/-- Settles O36: the check by `Attitude.firstViolation_eq_some_iff`, the domains by `AttReg.inDomain_iff`, whose ends are those of
R22 (the literal 0 is the positive zero). -/
theorem firstViolationIsTheFirst : Obligations.FirstViolationIsTheFirst := by
  unfold Obligations.FirstViolationIsTheFirst
  have hzero : F64.literal false 0 1 = AttReg.horiz.low := by decide +kernel
  refine ⟨Attitude.firstViolation_eq_some_iff, Attitude.firstViolation_eq_none_iff, ?_, fun _ => rfl⟩
  simp only [List.forall_mem_cons, hzero]
  exact ⟨AttReg.horiz.inDomain_iff, AttReg.vert.inDomain_iff, AttReg.heave.inDomain_iff, AttReg.roll.inDomain_iff,
    AttReg.pitch.inDomain_iff, nofun⟩

/-! ### The horizontal code (R191 to R193) -/

theorem horizQuantum : (F64.literal false 383 10000).IsQuantum 383 10000 where
  finite := by decide +kernel
  positive := by decide +kernel
  units_pos := by decide +kernel
  error := by decide +kernel

section Horizontal

variable {h : F64} (hd : AttReg.horiz.inDomain h = true)
include hd

/-- An in-range horizontal value is negative only as -0.0, so its quotient has no negative integer next to it. -/
theorem horizQuotient_nonneg :
    0 ≤ (F64.div h (.literal false 383 10000)).rte ∧ 0 ≤ (F64.div h (.literal false 383 10000)).rtz := by
  obtain ⟨hfin, hlow, -⟩ := (AttReg.inDomain_iff _ _).mp hd
  refine (horizQuantum.div_isRounding hfin).rte_rtz_nonneg horizQuantum.units_pos fun hs => ?_
  rw [F64.units_eq_zero_of_sign hlow hs, Nat.zero_mul]

theorem horizCode_of_lt (hlt : h.lt (.literal false 9771 1000) = true) :
    (horizCode h : Int) = (F64.div h (.literal false 383 10000)).rte := by
  obtain ⟨hrte, -⟩ := horizQuotient_nonneg hd
  simp only [horizCode, hlt, if_true]
  exact Int.toNat_of_nonneg hrte

theorem horizCode_of_not_lt (hlt : h.lt (.literal false 9771 1000) = false) :
    (horizCode h : Int) = min (F64.div h (.literal false 383 10000)).rtz 255 := by
  obtain ⟨-, hrtz⟩ := horizQuotient_nonneg hd
  simp only [horizCode, hlt, Bool.false_eq_true, if_false]
  omega

/-- The domain's upper end is below 257 quanta. -/
theorem horiz_units_le : h.units ≤ 257 * (F64.literal false 383 10000).units := by
  obtain ⟨-, hlow, hhigh⟩ := (AttReg.inDomain_iff _ _).mp hd
  have hzero : AttReg.horiz.low.toInt1074 = 0 := rfl
  have hend : AttReg.horiz.high.toInt1074 ≤ 257 * (F64.literal false 383 10000).units := by decide +kernel
  rw [F64.units_eq_natAbs h]
  omega

/-- From 9.771 on the quotient is at least 255, so the clamp leaves 255. -/
theorem horizCode_eq_of_not_lt (hlt : h.lt (.literal false 9771 1000) = false) : horizCode h = 255 := by
  obtain ⟨hfin, hlow, -⟩ := (AttReg.inDomain_iff _ _).mp hd
  have hlit : (F64.literal false 9771 1000).isFinite = true := by decide +kernel
  have hbound : (F64.literal false 255 1).isFinite = true := by decide +kernel
  have hle : (F64.literal false 9771 1000).units ≤ h.units := by
    have hnot := mt (F64.lt_iff_toInt1074_lt hfin hlit).mpr (Bool.eq_false_iff.mp hlt)
    have hpos : (0 : Int) ≤ (F64.literal false 9771 1000).toInt1074 := by decide +kernel
    rw [F64.units_eq_natAbs, F64.units_eq_natAbs]
    omega
  have hnum : (F64.literal false 255 1).units * (F64.literal false 383 10000).units ≤ h.units * 2 ^ 1074 :=
    Nat.le_trans (by decide +kernel) (Nat.mul_le_mul_right _ hle)
  obtain ⟨hqfin, -⟩ := horizQuantum.div_le hfin (by decide) (horiz_units_le hd)
  have hq := (horizQuantum.div_isRounding hfin).le_units horizQuantum.units_pos hqfin hbound hnum
  have hrtz : 255 ≤ (F64.div h (.literal false 383 10000)).rtz.natAbs := by
    rw [F64.rtz_natAbs, Nat.le_div_iff_mul_le (Nat.two_pow_pos 1074)]
    exact Nat.le_trans (by decide +kernel) hq
  obtain ⟨-, hnonneg⟩ := horizQuotient_nonneg hd
  have hcode := horizCode_of_not_lt hd hlt
  omega

end Horizontal

/-- Settles O37: the bound is `horizCode_le`; the codes are the integers they are made from, as those are not negative. -/
theorem horizontalCodeIsAByte : Obligations.HorizontalCodeIsAByte := by
  unfold Obligations.HorizontalCodeIsAByte
  exact fun h hd => ⟨horizCode_le hd, horizCode_of_lt hd, horizCode_of_not_lt hd⟩

/-! ### The vertical code (R195) -/

theorem vertQuantum : (F64.literal false 625 1000000).IsQuantum 625 1000000 where
  finite := by decide +kernel
  positive := by decide +kernel
  units_pos := by decide +kernel
  error := by decide +kernel

section Vertical

variable {v : F64} (hd : AttReg.vert.inDomain v = true)
include hd

/-- The magnitude of a value in the domain is at most that of the end on its side. -/
theorem vert_units_le : v.units ≤ if v.sign = true then (F64.literal true 2048 100).units
    else (F64.literal false 2047 100).units := by
  obtain ⟨-, hlow, hhigh⟩ := (AttReg.inDomain_iff _ _).mp hd
  have hlowEnd : AttReg.vert.low.toInt1074 = -((F64.literal true 2048 100).units : Int) := by decide +kernel
  have hhighEnd : AttReg.vert.high.toInt1074 = (F64.literal false 2047 100).units := by decide +kernel
  rw [hlowEnd, F64.toInt1074] at hlow
  rw [hhighEnd, F64.toInt1074] at hhigh
  split
  · next hs =>
    rw [if_pos hs] at hlow
    omega
  · next hs =>
    rw [if_neg hs] at hhigh
    omega

/-- The domain is within 32769 quanta of zero. -/
theorem vert_units_le_mul : v.units ≤ 32769 * (F64.literal false 625 1000000).units := by
  have hle := vert_units_le hd
  have hlow : (F64.literal true 2048 100).units ≤ 32769 * (F64.literal false 625 1000000).units := by decide +kernel
  have hhigh : (F64.literal false 2047 100).units ≤ 32769 * (F64.literal false 625 1000000).units := by decide +kernel
  split at hle <;> omega

/-- R195's bounds: the ends of the domain are -32768 and 32752 quanta, and the rounding of the quotient adds less than a quarter. -/
theorem vertQuotient_bounds : -32768 ≤ (F64.div v (.literal false 625 1000000)).rte ∧
    (F64.div v (.literal false 625 1000000)).rte ≤ 32752 := by
  obtain ⟨hfin, -, -⟩ := (AttReg.inDomain_iff _ _).mp hd
  have hr := vertQuantum.div_isRounding hfin
  have hle := vert_units_le hd
  have hsign := vertQuantum.div_sign hfin
  rw [F64.rte, hsign]
  split at hle
  · next hs =>
    have hm : rteUnits (F64.div v (.literal false 625 1000000)).units ≤ 32768 :=
      hr.rteUnits_le vertQuantum.units_pos (y := .literal false 131073 4) (by decide +kernel)
        ((Nat.mul_le_mul_right _ hle).trans (by decide +kernel)) (by decide +kernel)
    rw [if_pos hs]
    omega
  · next hs =>
    have hm : rteUnits (F64.div v (.literal false 625 1000000)).units ≤ 32752 :=
      hr.rteUnits_le vertQuantum.units_pos (y := .literal false 131009 4) (by decide +kernel)
        ((Nat.mul_le_mul_right _ hle).trans (by decide +kernel)) (by decide +kernel)
    rw [if_neg hs]
    omega

/-- The 16-bit pattern loses nothing. -/
theorem vertCode_toInt : (vertCode v).toInt = (F64.div v (.literal false 625 1000000)).rte := by
  obtain ⟨hlow, hhigh⟩ := vertQuotient_bounds hd
  exact BitVec.toInt_ofInt_eq_self (by decide) hlow (by omega)

end Vertical

/-- Settles O38: the quotient stays within the ends (`vertQuotient_bounds`), which are those of sixteen bits. -/
theorem verticalCodeFitsSixteenBits : Obligations.VerticalCodeFitsSixteenBits := by
  unfold Obligations.VerticalCodeFitsSixteenBits
  intro v hd
  obtain ⟨hlow, hhigh⟩ := vertQuotient_bounds hd
  exact ⟨hlow, hhigh, vertCode_toInt hd⟩

/-! ### The magnitudes (R197) -/

/-- Settles O39: the bound is `magnitude_le`; a product of two values without sign has no negative integer next to it. -/
theorem magnitudeHasFourDigits : Obligations.MagnitudeHasFourDigits := by
  unfold Obligations.MagnitudeHasFourDigits
  intro x hd
  obtain ⟨hfin, -, -⟩ := (AttReg.inDomain_iff _ _).mp hd
  obtain ⟨habs, hsign, -⟩ := F64.abs_of_isFinite hfin
  have hhundred : (F64.literal false 100 1).isFinite = true ∧ (F64.literal false 100 1).sign = false := by decide +kernel
  have hr := F64.mul_isRounding habs hhundred.1
  rw [hsign, hhundred.2] at hr
  obtain ⟨hrte, -⟩ := hr.rte_rtz_nonneg F64.one1074_pos nofun
  exact ⟨magnitude_le hd, Int.toNat_of_nonneg hrte⟩

/-! ### Decoding a code (R202) -/

/-- Settles O42: both codes are the whole numbers nearest a quotient by a quantum (`horizCode_of_lt`, `vertCode_toInt`), which
`F64.IsQuantum.rte_div_error` compares with the value. -/
theorem codesRoundTrip : Obligations.CodesRoundTrip := by
  unfold Obligations.CodesRoundTrip
  intro a hrange
  rw [Attitude.firstViolation_eq_none_iff] at hrange
  have hhoriz : AttReg.horiz.inDomain a.horiz = true := hrange .horiz
  have hvert : AttReg.vert.inDomain a.vert = true := hrange .vert
  obtain ⟨hfinH, -, -⟩ := (AttReg.inDomain_iff _ _).mp hhoriz
  obtain ⟨hfinV, -, -⟩ := (AttReg.inDomain_iff _ _).mp hvert
  refine ⟨fun hlt => ?_, horizCode_eq_of_not_lt hhoriz, ?_⟩
  · rw [horizCode_of_lt hhoriz hlt]
    exact horizQuantum.rte_div_error hfinH (by decide) (horiz_units_le hhoriz) (e := 2 ^ 1032) (by decide +kernel)
  · rw [vertCode_toInt hvert]
    exact vertQuantum.rte_div_error hfinV (by decide) (vert_units_le_mul hvert) (e := 2 ^ 1040) (by decide +kernel)

end Sys2Proof.Machine
end

section
/-! ## PROOFS. The bridge loop: the rows of the transition table that run no instruction, in their order of priority (R261), and
the delivery of a whole record -/

namespace Sys2Proof.Machine

variable {s : State}

/-! ### The rows, by their conditions -/

theorem State.failing_iff (s : State) :
    s.failing = true ↔ (s.host.srcFail = true ∨ s.host.sinkFail = true) ∧ s.fsm ≠ .stopped := by
  simp [State.failing]

/-- With both failure lines low no failure is to be taken, in any control state. -/
theorem State.failing_eq_false (hsrc : s.host.srcFail = false) (hsink : s.host.sinkFail = false) : s.failing = false := by
  simp [State.failing, hsrc, hsink]

theorem State.stopping_iff (s : State) :
    s.stopping = true ↔ s.host.stopReq = true ∧ s.fsm ≠ .emit ∧ s.fsm ≠ .stopped := by
  simp [State.stopping, and_assoc]

/-- A stop request waits for the end of the record (R229). -/
theorem State.stopping_of_emit (hf : s.fsm = .emit) : s.stopping = false := by
  simp [State.stopping, hf]

theorem State.rowReady_of_emit (hf : s.fsm = .emit) :
    s.rowReady = true ↔ s.tx.ocnt < 26 ∧ s.host.outReady = true := by
  simp [State.rowReady, hf]

/-- In STOPPED no row of the table is enabled (R231). -/
theorem State.blockEnabled_of_stopped (hf : s.fsm = .stopped) : s.blockEnabled = false := by
  simp [State.blockEnabled, State.failing, State.stopping, State.rowReady, hf]

/-- A failure comes before everything else in the block (R230). -/
theorem blockStep_of_failing (h : s.failing = true) : blockStep s = .next s.ioFail := by
  simp [blockStep, State.fetch, State.control, h]

/-- A stop request comes before the control state's own row (R229). -/
theorem blockStep_of_stopping (hfail : s.failing = false) (h : s.stopping = true) :
    blockStep s = .next (s.withFsm .stopped) := by
  simp [blockStep, State.fetch, State.control, hfail, h]

theorem blockStep_of_idle (hfail : s.failing = false) (hstop : s.stopping = false) (hf : s.fsm = .idle) :
    blockStep s = .next (s.withFsm .waitSync) := by
  simp [blockStep, State.fetch, State.control, State.rowReady, hfail, hstop, hf]

theorem blockStep_of_emit (hfail : s.failing = false) (hf : s.fsm = .emit) (hready : s.rowReady = true) :
    blockStep s = .next s.deliver := by
  simp [blockStep, State.fetch, State.control, hfail, State.stopping_of_emit hf, hready, hf]

/-! ### Searching, stopping, failing -/

/-- Settles O6: with no line raised the row of IDLE is taken (`blockStep_of_idle`). -/
theorem idleStepStartsSearching : Obligations.IdleStepStartsSearching := by
  unfold Obligations.IdleStepStartsSearching
  intro s hq hturn hf
  obtain ⟨hfail, hstop⟩ := hq.not_failing_not_stopping
  obtain ⟨hr, -, -, -⟩ := hq
  rw [step_blockTurn hturn hr, blockStep_of_idle (s := s.popped) hfail hstop hf]
  rfl

/-- Settles O7: each of the five control states takes the stop request (`State.stopping_iff`), before its own row. -/
theorem stopRequestDropsTheFrame : Obligations.StopRequestDropsTheFrame := by
  unfold Obligations.StopRequestDropsTheFrame
  intro s hr hsrc hsink hreq hturn hmem
  have hne : s.fsm ≠ .emit ∧ s.fsm ≠ .stopped := by
    refine ⟨fun hf => ?_, fun hf => ?_⟩ <;> simp [hf] at hmem
  have hfail : s.popped.failing = false := State.failing_eq_false hsrc hsink
  have hstop : s.popped.stopping = true := (State.stopping_iff _).mpr ⟨hreq, hne⟩
  rw [step_blockTurn hturn hr, blockStep_of_stopping hfail hstop]
  rfl

/-- The two failure bits of the event's argument are the numbers of R251: 1 the source, 2 the sink, 3 both. -/
theorem Event.ioFailure_eq (pos : Nat) {src sink : Bool} (h : src = true ∨ sink = true) :
    Event.ioFailure pos src sink =
      ⟨7, 0, 0, BitVec.ofNat 32 pos, if src = true ∧ sink = true then 3 else if src = true then 1 else 2⟩ := by
  cases src <;> cases sink
  case false.false => simp at h
  all_goals rfl

/-- Settles O8: a failure comes first (`blockStep_of_failing`), and its step is the stop with the event of R259. -/
theorem ioFailureStopsTheBlock : Obligations.IoFailureStopsTheBlock := by
  unfold Obligations.IoFailureStopsTheBlock
  intro s hr hlines hf hturn
  have hfail : s.popped.failing = true := (State.failing_iff _).mpr ⟨hlines, hf⟩
  rw [step_blockTurn hturn hr, blockStep_of_failing hfail, State.ioFail, State.stopWith_eq, ← Event.ioFailure_eq s.pos hlines]
  rfl

/-! ### STOPPED -/

/-- In STOPPED the handshake accepts nothing (20_memory.md R52). -/
theorem State.recv_of_stopped (hf : s.fsm = .stopped) : s.recv = s := by
  rcases s.recv_cases with ⟨e, -⟩ | ⟨b, bs, -, hne, -⟩
  · exact e
  · exact absurd hf hne

/-- Settles O9: the ports by their definitions; no block step is enabled (`State.blockEnabled_of_stopped`), so the default turn is
the handshake's, which accepts nothing (`State.recv_of_stopped`). -/
theorem stoppedIsTerminal : Obligations.StoppedIsTerminal := by
  unfold Obligations.StoppedIsTerminal
  intro s
  refine ⟨by simp [State.stoppedOut], by simp [State.inReady], ?_, fun hf hr hturn => ?_⟩
  · intro p hp hf
    rw [State.fsmState, hf]
    clear hf
    revert p
    decide
  have hwait : s.popped.blockEnabled = false := State.blockEnabled_of_stopped (s := s.popped) hf
  have hrecv : s.popped.recv = s.popped := State.recv_of_stopped (s := s.popped) hf
  rcases hturn with h | h | h
  · rw [step_blockTurn (.inl h) hr, blockStep_of_not_enabled hwait]
  · rw [step_recv (State.nextTurn_of_head? h) hr, hrecv]
  · have hnext : s.nextTurn = .recv := by simp [State.nextTurn, h, State.blockEnabled_of_stopped hf]
    rw [step_recv hnext hr, hrecv]

/-! ### EMIT -/

/-- The port presents the next byte of the record in EMIT, and with no failure and no reset only (20_memory.md R56, log 28). -/
theorem State.outData_of_emit (hf : s.fsm = .emit) (hfail : s.failing = false) (hr : s.host.rst = false) :
    s.outData = s.tx.obuf.toList[s.tx.ocnt]? := by
  simp [State.outData, hf, hfail, hr]

theorem State.outData_eq_none (h : s.fsm ≠ .emit ∨ s.failing = true ∨ s.host.rst = true) : s.outData = none := by
  refine if_neg ?_
  rintro ⟨hf, hfail, hr⟩
  simp [hf, hfail, hr] at h

/-- The delivery of a byte that the record holds at `ocnt`, in EMIT. -/
theorem State.deliver_of_emit {b : Byte} (hf : s.fsm = .emit) (hb : s.tx.obuf.toList[s.tx.ocnt]? = some b) :
    s.deliver = { s with
      out := s.out ++ [b], tx := ⟨s.tx.obuf, s.tx.ocnt + 1⟩, fsm := if s.tx.ocnt = 25 then .idle else .emit } := by
  obtain ⟨hlen, hget⟩ := List.getElem?_eq_some_iff.mp hb
  have hc : s.tx.ocnt < 26 := by simpa using hlen
  have hbyte : s.tx.obuf[s.tx.ocnt] = b := by simpa using hget
  rw [State.deliver_eq s hc, hbyte, hf]
  simp only [Nat.reduceEqDiff]

/-- A block turn in EMIT with a ready sink delivers the byte that the record holds at `ocnt` (R227). -/
theorem step_emit {b : Byte} (hr : s.host.rst = false) (hfail : s.failing = false) (hturn : s.BlockTurn) (hf : s.fsm = .emit)
    (hready : s.host.outReady = true) (hb : s.tx.obuf.toList[s.tx.ocnt]? = some b) :
    step s = .next { s.popped with
      out := s.out ++ [b], tx := ⟨s.tx.obuf, s.tx.ocnt + 1⟩, fsm := if s.tx.ocnt = 25 then .idle else .emit } := by
  have hc : s.tx.ocnt < 26 := by simpa using (List.getElem?_eq_some_iff.mp hb).1
  have hrow : s.popped.rowReady = true := (State.rowReady_of_emit (s := s.popped) hf).mpr ⟨hc, hready⟩
  rw [step_blockTurn hturn hr, blockStep_of_emit (s := s.popped) hfail hf hrow, State.deliver_of_emit (s := s.popped) hf hb]
  rfl

/-- Settles O11: `step_emit` with a ready sink; with no ready sink no row is enabled, a stop request waiting for the end of the
record; and the port by `State.outData_of_emit` and `State.outData_eq_none`. -/
theorem emitDeliversOneByte : Obligations.EmitDeliversOneByte := by
  unfold Obligations.EmitDeliversOneByte
  refine ⟨fun s b hr hsrc hsink hturn hf hready _ hb => ?_, fun s hr hsrc hsink hturn hf hready => ?_,
    fun s => ⟨fun hf hr hsrc hsink => ?_, fun h => ?_⟩⟩
  · have hfail := State.failing_eq_false hsrc hsink
    exact ⟨(State.outData_of_emit hf hfail hr).trans hb, step_emit hr hfail hturn hf hready hb⟩
  · have hrow : s.rowReady = false := by simp [State.rowReady, hf, hready]
    have hwait : s.popped.blockEnabled = false := by
      have hen : s.blockEnabled = false := by
        rw [State.blockEnabled, State.failing_eq_false hsrc hsink, State.stopping_of_emit hf, hrow]; rfl
      exact hen
    rw [step_blockTurn (.inl hturn) hr, blockStep_of_not_enabled hwait]
  · exact State.outData_of_emit hf (State.failing_eq_false hsrc hsink) hr
  · refine State.outData_eq_none ?_
    by_cases hf : s.fsm = .emit
    · have hne : s.fsm ≠ .stopped := by simp [hf]
      rcases h with h | h | h | h
      · exact .inl h
      · exact .inr (.inr h)
      · exact .inr (.inl (s.failing_iff.mpr ⟨.inl h, hne⟩))
      · exact .inr (.inl (s.failing_iff.mpr ⟨.inr h, hne⟩))
    · exact .inl hf

/-! ### The whole record -/

/-- The state with the first `k` bytes of the record delivered. -/
def State.delivered (s : State) (k : Nat) : State :=
  { s with out := s.out ++ s.tx.obuf.toList.take k, tx := ⟨s.tx.obuf, k⟩, fsm := if k = 26 then .idle else .emit }

theorem State.delivered_zero (hf : s.fsm = .emit) (hc : s.tx.ocnt = 0) : s.delivered 0 = s := by
  rw [State.delivered, if_neg (by decide), List.take_zero, List.append_nil, ← hf, ← hc]

theorem State.delivered_whole (s : State) :
    s.delivered 26 = { s with out := s.out ++ s.tx.obuf.toList, tx := ⟨s.tx.obuf, 26⟩, fsm := .idle } := by
  rw [State.delivered, List.take_of_length_le (by simp), if_pos rfl]

/-- With a quiet host, a ready sink and nothing scheduled, every step before the 26th byte delivers the record's next one. -/
theorem step_delivered (hq : s.host.Quiet) (hsched : s.host.sched = []) (hready : s.host.outReady = true) {k : Nat}
    (hk : k < 26) : step (s.delivered k) = .next (s.delivered (k + 1)) := by
  have hlen : k < s.tx.obuf.toList.length := by simpa using hk
  have hlast : (if (s.delivered k).tx.ocnt = 25 then Fsm.idle else .emit) = if k + 1 = 26 then .idle else .emit :=
    if_congr Nat.succ_inj.symm rfl rfl
  have hf : (s.delivered k).fsm = .emit := if_neg (Nat.ne_of_lt hk)
  have hrow : (s.delivered k).rowReady = true := (State.rowReady_of_emit hf).mpr ⟨hk, hready⟩
  have hturn : (s.delivered k).BlockTurn := .inr ⟨hsched, by simp [State.blockEnabled, hrow]⟩
  obtain ⟨hr, -, hsrc, hsink⟩ := hq
  have hfail : (s.delivered k).failing = false := State.failing_eq_false hsrc hsink
  rw [step_emit (s := s.delivered k) hr hfail hturn hf hready (List.getElem?_eq_getElem hlen),
    State.popped_nil (s := s.delivered k) hsched, hlast]
  simp only [State.delivered, List.append_assoc, List.take_append_getElem hlen]

theorem stepN_delivers (hq : s.host.Quiet) (hsched : s.host.sched = []) (hready : s.host.outReady = true)
    (hf : s.fsm = .emit) (hc : s.tx.ocnt = 0) {k : Nat} (hk : k ≤ 26) : stepN k s = .next (s.delivered k) := by
  induction k with
  | zero => rw [stepN, State.delivered_zero hf hc]
  | succ k ih => rw [stepN_succ_of_next (ih (Nat.le_of_succ_le hk)), step_delivered hq hsched hready hk]

/-- Settles O12: 26 steps deliver 26 bytes (`stepN_delivers`), which are the whole record. -/
theorem recordIsDeliveredWhole : Obligations.RecordIsDeliveredWhole := by
  unfold Obligations.RecordIsDeliveredWhole
  intro s hq hsched hready hf hc
  rw [stepN_delivers hq hsched hready hf hc le_rfl, State.delivered_whole]

end Sys2Proof.Machine
end

section
/-! ## PROOFS. The exceptions: a fault of a supported frame is an event and the frame abort, and no step is without an answer -/

namespace Sys2Proof.Machine

variable {s : State}

/-! ### The frame abort of a supported message (R255, R257, R258) -/

/-- The row of an id that carries nothing is the supported arm of its layout, with the update that changes nothing. -/
theorem exec_plainRow {p : Instr × BitVec 16 × MsgKind} (hp : p ∈ plainRows) (s : State) :
    exec p.1 s = stepIf (s.messageHere p.2.1) (s.supported p.2.2 updNone) s := by
  simp only [plainRows, List.mem_cons, List.not_mem_nil, or_false] at hp
  rcases hp with rfl | rfl | rfl | rfl | rfl <;> rfl

/-- The row of an updating id is the supported arm of its layout and its update. -/
theorem exec_updatingRow {p : Instr × BitVec 16 × MsgKind × (FieldRecord → Attitude → Attitude)} (hp : p ∈ updatingRows)
    (s : State) : exec p.1 s = stepIf (s.messageHere p.2.1) (s.supported p.2.2.1 p.2.2.2) s := by
  simp only [updatingRows, List.mem_cons, List.not_mem_nil, or_false] at hp
  rcases hp with rfl | rfl | rfl <;> rfl

/-- Each of the eight supported ids has an arm of the same shape: length check, unpacker, some update, disposition. -/
theorem exec_supportedRow {p : Instr × BitVec 16 × MsgKind}
    (hp : p ∈ plainRows ++ updatingRows.map (fun q => (q.1, q.2.1, q.2.2.1))) (s : State) :
    ∃ upd, exec p.1 s = stepIf (s.messageHere p.2.1) (s.supported p.2.2 upd) s := by
  rcases List.mem_append.mp hp with hplain | hupdating
  · exact ⟨updNone, exec_plainRow hplain s⟩
  · obtain ⟨q, hq, rfl⟩ := List.mem_map.mp hupdating
    exact ⟨q.2.2.2, exec_updatingRow hq s⟩

/-- A declared length below the layout's size aborts before the payload is read (R144). -/
theorem State.supported_of_short {k : MsgKind} {upd : FieldRecord → Attitude → Attitude}
    (h : s.frame.msgLen.toNat < (s.layout k).size) : s.supported k upd = s.abortFrame (.lengthMismatch s.frame) :=
  if_pos h

/-- The disposition of a candidate out of range is the frame abort with the first register that fails (R226). -/
theorem State.dispose_of_outOfRange {cand : Attitude} {r : AttReg} (h : cand.firstViolation = some r) :
    s.dispose cand = s.abortFrame (.outOfRange r s.frame) := by
  rcases s.dispose_cases cand with ⟨hnone, -⟩ | ⟨r', hr', e⟩
  · rw [h] at hnone
    cases hnone
  · rw [h] at hr'
    cases hr'
    exact e

theorem State.supported_of_outOfRange {k : MsgKind} {upd : FieldRecord → Attitude → Attitude} {r : AttReg}
    (hsize : (s.layout k).size ≤ s.frame.msgLen.toNat) (h : (upd (s.fieldsOf k) s.arf).firstViolation = some r) :
    s.supported k upd = s.abortFrame (.outOfRange r s.frame) := by
  rcases s.supported_cases k upd with ⟨hshort, -⟩ | ⟨-, e⟩
  · exact absurd hsize (Nat.not_le_of_lt hshort)
  · rw [e, State.dispose_of_outOfRange h]

theorem Event.lengthMismatch_eq (f : FrameLatches) :
    Event.lengthMismatch f = ⟨6, 0, f.msgId, BitVec.ofNat 32 f.syncOff, BitVec.ofNat 32 f.msgLen.toNat⟩ := by
  rw [Event.lengthMismatch, report, BitVec.ofNat_toNat]

theorem Event.outOfRange_eq (r : AttReg) (f : FrameLatches) :
    Event.outOfRange r f = ⟨4, r.index, f.msgId, BitVec.ofNat 32 f.syncOff, 0⟩ := rfl

/-- Settles O29: the length check is the first thing every supported arm does, whatever its update. -/
theorem shortPayloadIsALengthMismatch : Obligations.ShortPayloadIsALengthMismatch := by
  unfold Obligations.ShortPayloadIsALengthMismatch
  intro s p hp hf hlen hid hshort
  obtain ⟨upd, hexec⟩ := exec_supportedRow hp s
  have hhere : s.messageHere p.2.1 = true := (s.messageHere_iff _).mpr ⟨hf, hlen, hid⟩
  rw [hexec, stepIf_true hhere, State.supported_of_short hshort, State.abortFrame_eq, Event.lengthMismatch_eq]

/-- Settles O30: the length check passes, so the candidate is disposed of, and its first failing register names the event. -/
theorem outOfRangeCandidateAbortsTheFrame : Obligations.OutOfRangeCandidateAbortsTheFrame := by
  unfold Obligations.OutOfRangeCandidateAbortsTheFrame
  intro s r p hp hf hlen hid hsize hviolation
  have hhere : s.messageHere p.2.1 = true := (s.messageHere_iff _).mpr ⟨hf, hlen, hid⟩
  rw [exec_updatingRow hp, stepIf_true hhere, State.supported_of_outOfRange hsize hviolation, State.abortFrame_eq,
    Event.outOfRange_eq]

/-! ### Every step has a next state (R250, R256, R262) -/

/-- Every instruction is one rule under its `require`, and such a rule answers its effect or the wait (`stepIf_eq`). -/
theorem exec_answers (i : Instr) (s : State) : ∃ t, exec i s = .next t := by
  cases i with
  | syncLong | syncShort | syncInfoText | syncNone => exact ⟨_, stepIf_eq _ _ _⟩
  | msg1462 | msg1457 | msg319 | msg1465 | msg508 | msg1708 | msg1382 | msg813 => exact ⟨_, stepIf_eq _ _ _⟩
  | msgUnsupported => exact ⟨_, stepIf_eq _ _ _⟩

theorem blockStep_answers (s : State) : ∃ t, blockStep s = .next t := by
  rcases blockStep_cases s with ⟨i, -, e⟩ | ⟨-, e⟩
  · rw [e]
    exact exec_answers i s
  · exact ⟨s.control, e⟩

theorem Choice.outcome_answers (c : Choice) : ∃ t, c.outcome = .next t := by
  cases c with
  | done t => exact ⟨t, Choice.outcome_done t⟩
  | block t => exact blockStep_answers t

/-- Settles O52: the arbitration gives a state of the host's turn or a block step (`step_eq_outcome`), and both answer. -/
theorem everyStepAnswersANextState : Obligations.EveryStepAnswersANextState := by
  unfold Obligations.EveryStepAnswersANextState
  intro s
  rw [step_eq_outcome]
  exact Choice.outcome_answers _

end Sys2Proof.Machine
end
